-- ==== Sys2Proof/Word.lean ====
section
/-! DEFINITION. The word types of the CHIP-8 core, by the widths of spec/00_scope.md R4 and spec/30_encoding.md R61. -/

namespace Sys2Proof

/-- One byte of memory, one V register, one timer (R4: V_WIDTH, TIMER_WIDTH; R40). -/
abbrev Byte := BitVec 8

/-- Sixteen bits: I, PC, a stack entry, an instruction word (R4). -/
abbrev Word := BitVec 16

/-- A register field x or y: all sixteen values are legal (R10, R63). -/
abbrev Reg := BitVec 4

/-- The address field nnn (R61). -/
abbrev Addr := BitVec 12

/-- A keypad sample, bit k for key k (R24). -/
abbrev Keys := BitVec 16

end Sys2Proof
end

