-- ==== Sys2Proof/Syntax.lean ====
section
/-! DEFINITION. The 35 instructions of spec/30_encoding.md R65, one constructor a row of spec/opcode_table.json,
in the table's order, with the operands of the row's format (R62). -/

namespace Sys2Proof

/-- An instruction. "Each instruction variant extracts exactly the operand fields it needs" (R61); the ignored
field y of SHR and SHL is kept, because every value of it is legal (R72). -/
inductive Instr where
  /-- 00E0, R130. -/
  | cls
  /-- 00EE, R81. -/
  | ret
  /-- 0nnn other than 00E0 and 00EE, R80. -/
  | sys (nnn : Addr)
  /-- 1nnn, R82. -/
  | jp (nnn : Addr)
  /-- 2nnn, R83. -/
  | call (nnn : Addr)
  /-- 3xkk, R90. -/
  | seImm (x : Reg) (kk : Byte)
  /-- 4xkk, R91. -/
  | sneImm (x : Reg) (kk : Byte)
  /-- 5xy0, R92. -/
  | seReg (x y : Reg)
  /-- 6xkk, R100. -/
  | ldImm (x : Reg) (kk : Byte)
  /-- 7xkk, R101. -/
  | addImm (x : Reg) (kk : Byte)
  /-- 8xy0, R102. -/
  | ldReg (x y : Reg)
  /-- 8xy1, R103. -/
  | orReg (x y : Reg)
  /-- 8xy2, R104. -/
  | andReg (x y : Reg)
  /-- 8xy3, R105. -/
  | xorReg (x y : Reg)
  /-- 8xy4, R106. -/
  | addReg (x y : Reg)
  /-- 8xy5, R107. -/
  | sub (x y : Reg)
  /-- 8xy6, R109; y is ignored (R72). -/
  | shr (x y : Reg)
  /-- 8xy7, R108. -/
  | subn (x y : Reg)
  /-- 8xyE, R110; y is ignored (R72). -/
  | shl (x y : Reg)
  /-- 9xy0, R93. -/
  | sneReg (x y : Reg)
  /-- Annn, R120. -/
  | ldI (nnn : Addr)
  /-- Bnnn, R84. -/
  | jpV0 (nnn : Addr)
  /-- Cxkk, R111. -/
  | rnd (x : Reg) (kk : Byte)
  /-- Dxyn, R131. -/
  | drw (x y : Reg) (n : BitVec 4)
  /-- Ex9E, R132. -/
  | skp (x : Reg)
  /-- ExA1, R133. -/
  | sknp (x : Reg)
  /-- Fx07, R140. -/
  | ldVxDT (x : Reg)
  /-- Fx0A, R134. -/
  | ldVxK (x : Reg)
  /-- Fx15, R141. -/
  | ldDTVx (x : Reg)
  /-- Fx18, R142. -/
  | ldSTVx (x : Reg)
  /-- Fx1E, R121. -/
  | addI (x : Reg)
  /-- Fx29, R122. -/
  | ldF (x : Reg)
  /-- Fx33, R123. -/
  | ldB (x : Reg)
  /-- Fx55, R124. -/
  | storeRegs (x : Reg)
  /-- Fx65, R125. -/
  | loadRegs (x : Reg)
  deriving DecidableEq, Repr

end Sys2Proof
end

