-- ==== Sys2Proof/Decode.lean ====
section
/-! DEFINITION. The decoder of spec/30_encoding.md R61 to R71, total on words and on bytes; after it the encoder and
the opcode table of R65 with its masks; last the table-numbered entry of the host. -/

namespace Sys2Proof

/-! Fields of a word (R61). -/

/-- `op` = word[15:12], the family. -/
def fieldOp (w : Word) : BitVec 4 := w.extractLsb' 12 4

/-- `x` = word[11:8]. -/
def fieldX (w : Word) : Reg := w.extractLsb' 8 4

/-- `y` = word[7:4]. -/
def fieldY (w : Word) : Reg := w.extractLsb' 4 4

/-- `n` = word[3:0]. -/
def fieldN (w : Word) : BitVec 4 := w.extractLsb' 0 4

/-- `kk` = word[7:0]. -/
def fieldKK (w : Word) : Byte := w.extractLsb' 0 8

/-- `nnn` = word[11:0]. -/
def fieldNNN (w : Word) : Addr := w.extractLsb' 0 12

/-- Why bytes are not an instruction. -/
inductive DecodeError where
  /-- A word outside the instruction set (R64, R71). -/
  | unknownOpcode (word : Word)
  /-- Fewer than the two bytes of a word; the model's own, for byte lists (notes/assumptions/15.md). -/
  | truncated
  deriving DecidableEq, Repr

/-- Family 8, selected by n (R67). -/
def selectAlu (x y : Reg) (n : BitVec 4) : Option Instr :=
  match n with
  | 0x0#4 => some (.ldReg x y)
  | 0x1#4 => some (.orReg x y)
  | 0x2#4 => some (.andReg x y)
  | 0x3#4 => some (.xorReg x y)
  | 0x4#4 => some (.addReg x y)
  | 0x5#4 => some (.sub x y)
  | 0x6#4 => some (.shr x y)
  | 0x7#4 => some (.subn x y)
  | 0xE#4 => some (.shl x y)
  | _ => none

/-- Family E, selected by kk (R68). -/
def selectKey (x : Reg) (kk : Byte) : Option Instr :=
  match kk with
  | 0x9E#8 => some (.skp x)
  | 0xA1#8 => some (.sknp x)
  | _ => none

/-- Family F, selected by kk (R69). -/
def selectMisc (x : Reg) (kk : Byte) : Option Instr :=
  match kk with
  | 0x07#8 => some (.ldVxDT x)
  | 0x0A#8 => some (.ldVxK x)
  | 0x15#8 => some (.ldDTVx x)
  | 0x18#8 => some (.ldSTVx x)
  | 0x1E#8 => some (.addI x)
  | 0x29#8 => some (.ldF x)
  | 0x33#8 => some (.ldB x)
  | 0x55#8 => some (.storeRegs x)
  | 0x65#8 => some (.loadRegs x)
  | _ => none

/-- Family 0 (R66): two fixed words, every other one is SYS. -/
def selectSystem (nnn : Addr) : Instr :=
  match nnn with
  | 0x0E0#12 => .cls
  | 0x0EE#12 => .ret
  | _ => .sys nnn

/-- The algorithm of R64: first the top nibble, then the trailing nibble or byte. -/
def selectInstr (w : Word) : Option Instr :=
  match fieldOp w with
  | 0x0#4 => some (selectSystem (fieldNNN w))
  | 0x1#4 => some (.jp (fieldNNN w))
  | 0x2#4 => some (.call (fieldNNN w))
  | 0x3#4 => some (.seImm (fieldX w) (fieldKK w))
  | 0x4#4 => some (.sneImm (fieldX w) (fieldKK w))
  | 0x5#4 => if fieldN w = 0x0 then some (.seReg (fieldX w) (fieldY w)) else none
  | 0x6#4 => some (.ldImm (fieldX w) (fieldKK w))
  | 0x7#4 => some (.addImm (fieldX w) (fieldKK w))
  | 0x8#4 => selectAlu (fieldX w) (fieldY w) (fieldN w)
  | 0x9#4 => if fieldN w = 0x0 then some (.sneReg (fieldX w) (fieldY w)) else none
  | 0xA#4 => some (.ldI (fieldNNN w))
  | 0xB#4 => some (.jpV0 (fieldNNN w))
  | 0xC#4 => some (.rnd (fieldX w) (fieldKK w))
  | 0xD#4 => some (.drw (fieldX w) (fieldY w) (fieldN w))
  | 0xE#4 => selectKey (fieldX w) (fieldKK w)
  | _ => selectMisc (fieldX w) (fieldKK w) -- 0xF, the one value left

/-- `decode(word)` of R64: total and pure; a word outside the set is rejected under its name. -/
def decodeWord (w : Word) : Except DecodeError Instr :=
  match selectInstr w with
  | some i => .ok i
  | none => .error (.unknownOpcode w)

/-- The two bytes of a word as the hardware stores them: high byte at the lower address (R43, R60). -/
def wordBytes (w : Word) : List Byte := [w.extractLsb' 8 8, w.extractLsb' 0 8]

/-- Big-endian combination of two bytes (R43). -/
def bytesWord (hi lo : Byte) : Word := hi ++ lo

/-- Decoding from the front of a byte list; answers the instruction and the bytes after it. -/
def decodeBytes : List Byte → Except DecodeError (Instr × List Byte)
  | hi :: lo :: rest =>
    match decodeWord (bytesWord hi lo) with
    | .ok i => .ok (i, rest)
    | .error e => .error e
  | [_] => .error .truncated
  | [] => .error .truncated

/-! The encoder, from the formats of R62 and the patterns of R65. -/

/-- Format NNN: `op[15:12] nnn[11:0]`. -/
def wordNNN (op : BitVec 4) (nnn : Addr) : Word := op ++ nnn

/-- Formats XKK and X: `op[15:12] x[11:8] kk[7:0]`. -/
def wordXKK (op : BitVec 4) (x : Reg) (kk : Byte) : Word := op ++ x ++ kk

/-- Formats XY and XYN: `op[15:12] x[11:8] y[7:4] n[3:0]`. -/
def wordXYN (op : BitVec 4) (x y : Reg) (n : BitVec 4) : Word := op ++ x ++ y ++ n

/-- The word of an instruction (R65). -/
def encode : Instr → Word
  | .cls => 0x00E0
  | .ret => 0x00EE
  | .sys nnn => wordNNN 0x0 nnn
  | .jp nnn => wordNNN 0x1 nnn
  | .call nnn => wordNNN 0x2 nnn
  | .seImm x kk => wordXKK 0x3 x kk
  | .sneImm x kk => wordXKK 0x4 x kk
  | .seReg x y => wordXYN 0x5 x y 0x0
  | .ldImm x kk => wordXKK 0x6 x kk
  | .addImm x kk => wordXKK 0x7 x kk
  | .ldReg x y => wordXYN 0x8 x y 0x0
  | .orReg x y => wordXYN 0x8 x y 0x1
  | .andReg x y => wordXYN 0x8 x y 0x2
  | .xorReg x y => wordXYN 0x8 x y 0x3
  | .addReg x y => wordXYN 0x8 x y 0x4
  | .sub x y => wordXYN 0x8 x y 0x5
  | .shr x y => wordXYN 0x8 x y 0x6
  | .subn x y => wordXYN 0x8 x y 0x7
  | .shl x y => wordXYN 0x8 x y 0xE
  | .sneReg x y => wordXYN 0x9 x y 0x0
  | .ldI nnn => wordNNN 0xA nnn
  | .jpV0 nnn => wordNNN 0xB nnn
  | .rnd x kk => wordXKK 0xC x kk
  | .drw x y n => wordXYN 0xD x y n
  | .skp x => wordXKK 0xE x 0x9E
  | .sknp x => wordXKK 0xE x 0xA1
  | .ldVxDT x => wordXKK 0xF x 0x07
  | .ldVxK x => wordXKK 0xF x 0x0A
  | .ldDTVx x => wordXKK 0xF x 0x15
  | .ldSTVx x => wordXKK 0xF x 0x18
  | .addI x => wordXKK 0xF x 0x1E
  | .ldF x => wordXKK 0xF x 0x29
  | .ldB x => wordXKK 0xF x 0x33
  | .storeRegs x => wordXKK 0xF x 0x55
  | .loadRegs x => wordXKK 0xF x 0x65

/-- The bytes of an instruction in memory (R60). -/
def encodeBytes (i : Instr) : List Byte := wordBytes (encode i)

/-! The opcode table of R65, mask and match, in its order. -/

/-- One row: the fixed bits of an instruction. -/
structure OpcodeRow where
  /-- the bits that are fixed -/
  mask : Word
  /-- their values -/
  pattern : Word
  deriving DecidableEq, Repr

/-- The row of an instruction (R65, columns mask and match). -/
def rowOf : Instr → OpcodeRow
  | .cls => ⟨0xFFFF, 0x00E0⟩
  | .ret => ⟨0xFFFF, 0x00EE⟩
  | .sys _ => ⟨0xF000, 0x0000⟩
  | .jp _ => ⟨0xF000, 0x1000⟩
  | .call _ => ⟨0xF000, 0x2000⟩
  | .seImm _ _ => ⟨0xF000, 0x3000⟩
  | .sneImm _ _ => ⟨0xF000, 0x4000⟩
  | .seReg _ _ => ⟨0xF00F, 0x5000⟩
  | .ldImm _ _ => ⟨0xF000, 0x6000⟩
  | .addImm _ _ => ⟨0xF000, 0x7000⟩
  | .ldReg _ _ => ⟨0xF00F, 0x8000⟩
  | .orReg _ _ => ⟨0xF00F, 0x8001⟩
  | .andReg _ _ => ⟨0xF00F, 0x8002⟩
  | .xorReg _ _ => ⟨0xF00F, 0x8003⟩
  | .addReg _ _ => ⟨0xF00F, 0x8004⟩
  | .sub _ _ => ⟨0xF00F, 0x8005⟩
  | .shr _ _ => ⟨0xF00F, 0x8006⟩
  | .subn _ _ => ⟨0xF00F, 0x8007⟩
  | .shl _ _ => ⟨0xF00F, 0x800E⟩
  | .sneReg _ _ => ⟨0xF00F, 0x9000⟩
  | .ldI _ => ⟨0xF000, 0xA000⟩
  | .jpV0 _ => ⟨0xF000, 0xB000⟩
  | .rnd _ _ => ⟨0xF000, 0xC000⟩
  | .drw _ _ _ => ⟨0xF000, 0xD000⟩
  | .skp _ => ⟨0xF0FF, 0xE09E⟩
  | .sknp _ => ⟨0xF0FF, 0xE0A1⟩
  | .ldVxDT _ => ⟨0xF0FF, 0xF007⟩
  | .ldVxK _ => ⟨0xF0FF, 0xF00A⟩
  | .ldDTVx _ => ⟨0xF0FF, 0xF015⟩
  | .ldSTVx _ => ⟨0xF0FF, 0xF018⟩
  | .addI _ => ⟨0xF0FF, 0xF01E⟩
  | .ldF _ => ⟨0xF0FF, 0xF029⟩
  | .ldB _ => ⟨0xF0FF, 0xF033⟩
  | .storeRegs _ => ⟨0xF0FF, 0xF055⟩
  | .loadRegs _ => ⟨0xF0FF, 0xF065⟩

/-- The 35 instructions in the order of R65, each with its fields at zero standing for its row. -/
def tableInstrs : List Instr :=
  [.cls, .ret, .sys 0, .jp 0, .call 0, .seImm 0 0, .sneImm 0 0, .seReg 0 0, .ldImm 0 0, .addImm 0 0, .ldReg 0 0,
   .orReg 0 0, .andReg 0 0, .xorReg 0 0, .addReg 0 0, .sub 0 0, .shr 0 0, .subn 0 0, .shl 0 0, .sneReg 0 0, .ldI 0,
   .jpV0 0, .rnd 0 0, .drw 0 0 0, .skp 0, .sknp 0, .ldVxDT 0, .ldVxK 0, .ldDTVx 0, .ldSTVx 0, .addI 0, .ldF 0,
   .ldB 0, .storeRegs 0, .loadRegs 0]

/-- The rows in the order of R65. -/
def opcodeTable : List OpcodeRow := tableInstrs.map rowOf

/-- "A word `w` selects row r when `w & mask = match`" (R65). -/
def OpcodeRow.selects (r : OpcodeRow) (w : Word) : Bool := w &&& r.mask == r.pattern

/-- The row a word selects: the first in the table's order, so that rows 1 and 2 go before row 3 (R65). -/
def tableRow (w : Word) : Option OpcodeRow := opcodeTable.find? (fun r => r.selects w)

/-! The host's numbering. -/

/-- The bytes of a table-numbered word: bit 0 is the least significant bit of the one word of an instruction;
bits from `nbits` up are zero. -/
def tableBytes (nbits w : Nat) : List Byte := wordBytes (BitVec.ofNat 16 (w % 2 ^ nbits))

/-- The instruction the decoder reads from a table-numbered word. -/
def decodeTableWord (nbits w : Nat) : Option Instr :=
  match decodeBytes (tableBytes nbits w) with
  | .ok (i, _) => some i
  | .error _ => none

end Sys2Proof
end

