-- ==== Sys2Proof/Config.lean ====
section
/-! DEFINITION. What is fixed for this hardware (spec/00_scope.md R4) and the free values (notes/assumptions/3.md). -/

namespace Sys2Proof.Config

/-- MEM_SIZE (R4): addresses 0x000 to 0xFFF. -/
def memSize : Nat := 4096

/-- STACK_DEPTH (R4, R17). -/
def stackDepth : Nat := 16

/-- RESET_PC (R4): PC after reset, and where programs are loaded. -/
def resetPc : Word := 0x0200

/-- FONT_BASE (R4, decision D19). -/
def fontBase : Word := 0x0000

/-- FONT_GLYPH_BYTES (R4). -/
def fontGlyphBytes : Word := 5

/-- What a byte of MEM reads as when the memory list does not name it. DESIGN CHOICE: the spec gives no
value (R182, N8); see notes/assumptions/4.md. -/
def unlistedByte : Byte := 0x00

/-- The keypad sample of the n-th Step that the pending list does not name. FREE VALUE: the `keys` input
is the driver's (R7, R24); see notes/assumptions/3.md. -/
opaque freeKeys : Nat → Keys

/-- The random byte of the n-th Step that the pending list does not name. FREE VALUE: `rnd` is "a free
draw under no law" (R7, R25); see notes/assumptions/3.md. -/
opaque freeRnd : Nat → Byte

/-- The usual font, spec/93_implementation_defined.md G9: 16 glyphs of 5 bytes. No rule depends on it; it is
here for a loader only (notes/assumptions/18.md). -/
def usualFont : List Byte :=
  [0xF0, 0x90, 0x90, 0x90, 0xF0] ++ [0x20, 0x60, 0x20, 0x20, 0x70] ++
  [0xF0, 0x10, 0xF0, 0x80, 0xF0] ++ [0xF0, 0x10, 0xF0, 0x10, 0xF0] ++
  [0x90, 0x90, 0xF0, 0x10, 0x10] ++ [0xF0, 0x80, 0xF0, 0x10, 0xF0] ++
  [0xF0, 0x80, 0xF0, 0x90, 0xF0] ++ [0xF0, 0x10, 0x20, 0x40, 0x40] ++
  [0xF0, 0x90, 0xF0, 0x90, 0xF0] ++ [0xF0, 0x90, 0xF0, 0x10, 0xF0] ++
  [0xF0, 0x90, 0xF0, 0x90, 0x90] ++ [0xE0, 0x90, 0xE0, 0x90, 0xE0] ++
  [0xF0, 0x80, 0x80, 0x80, 0xF0] ++ [0xE0, 0x90, 0x90, 0x90, 0xE0] ++
  [0xF0, 0x80, 0xF0, 0x80, 0xF0] ++ [0xF0, 0x80, 0xF0, 0x80, 0x80]

end Sys2Proof.Config
end

