-- ==== Sys2Proof/Machine/State.lean ====
section
/-! DEFINITION. The state of the machine as plain data: everything of spec/10_state.md, the outputs and inputs of a
Step, and the driver's pending events. State.reset is the machine right after reset (R28). -/

namespace Sys2Proof.Machine

/-- One byte at an address. The memory MEM (R22) is a list of these, addresses strictly rising, none of them equal
to what an unlisted address reads as; `Memory.wf` says so (notes/assumptions/4.md). -/
abbrev Memory := List Host.Cell

/-- DISP (R23): 32 rows of 64 pixels, `true` is on; row 0 first, column 0 first in a row. -/
abbrev Display := Vector (Vector Bool 64) 32

/-- ERR, the latched fault record (R20). -/
structure Err where
  valid : Bool
  code : BitVec 3
  pc : Word
  info : Word
  deriving DecidableEq, Repr

/-- What a Step answers the driver (R5): the `status` output of the last Step (R26, R27). -/
inductive Status where
  /-- an instruction completed -/
  | ok
  /-- a wait-for-key that has not completed (R134) -/
  | waiting
  /-- FAULT(code, pc, info) (R157) -/
  | fault (code : BitVec 3) (pc info : Word)
  deriving DecidableEq, Repr

/-- The three events that move the machine (R5). `step` carries the inputs the core samples in that Step. -/
inductive Event where
  | reset
  | step (keys : Keys) (rnd : Byte)
  | tick
  deriving DecidableEq, Repr

/-- The four faults of the core and their payloads (R9, R150). They are TAKEN (`State.raise`), never a stop of the
model. -/
inductive CoreFault where
  | unknownOpcode (word : Word)
  | stackUnderflow (depth : Nat)
  | stackOverflow (depth : Nat)
  | outOfBounds (addr : Nat)
  deriving DecidableEq, Repr

/-- The condition of the core as a program or the driver can tell it (R21). -/
inductive Condition where
  | ready
  | waitKey
  | faulted
  deriving DecidableEq, Repr

/-- Stops of the model with a fault. THERE ARE NONE: the spec gives every behaviour of the core an effect
(spec/93_implementation_defined.md, end of part 1), and the four faults of the core are next states with ERR latched
(R157; notes/assumptions/6.md). Nothing raises a constructor of this type, which is the safe and the faithful reading
at once. -/
inductive Fault
  deriving DecidableEq, Repr

/-- Refusals of the model. -/
inductive Refusal where
  /-- Raised by an arm of `exec` whose instruction has no meaning yet. No arm does: all 35 are modelled. Safe: the
  run stops. -/
  | notModelled (mnemonic : String)
  deriving DecidableEq, Repr

/-- The machine. -/
structure State where
  /-- V0 to VF (R10); V[15] is VF (R11) -/
  v : Vector Byte 16
  /-- the index register (R13) -/
  i : Word
  /-- the program counter (R14) -/
  pc : Word
  /-- STACK[0..15], the return addresses (R17) -/
  stack : Vector Word 16
  /-- SP, the number of entries in use, 0 to 16 (R17; notes/assumptions/12.md) -/
  sp : Fin 17
  /-- the delay timer (R18) -/
  dt : Byte
  /-- the sound timer (R18) -/
  st : Byte
  /-- WAITING (R19) -/
  waiting : Bool
  /-- KEY_PREV (R19) -/
  keyPrev : Keys
  /-- ERR (R20) -/
  err : Err
  /-- MEM (R22) -/
  mem : Memory
  /-- DISP (R23) -/
  disp : Display
  /-- output: the answer of the last Step (R5, R26; notes/assumptions/5.md) -/
  status : Status
  /-- input: the keypad sample of the present Step (R24; notes/assumptions/2.md) -/
  keys : Keys
  /-- input: the random byte of the present Step (R25; notes/assumptions/2.md) -/
  rnd : Byte
  /-- MODEL: the driver's pending events, oldest first (R5 to R7; notes/assumptions/1.md) -/
  events : List Event
  /-- MODEL: how many Steps drew their inputs from the free values (notes/assumptions/3.md) -/
  draws : Nat
  deriving DecidableEq, Repr

/-- Every pixel off. -/
def Display.dark : Display := Vector.replicate 32 (Vector.replicate 64 false)

/-- ERR at reset: valid 0, the other fields 0 (R28). -/
def Err.clear : Err := { valid := false, code := 0, pc := 0, info := 0 }

/-- The machine right after reset (R28, R180), with no byte of memory listed and no event pending. -/
def State.reset : State where
  v := Vector.replicate 16 0
  i := 0
  pc := Config.resetPc
  stack := Vector.replicate 16 0
  sp := 0
  dt := 0
  st := 0
  waiting := false
  keyPrev := 0
  err := Err.clear
  mem := []
  disp := Display.dark
  status := .ok
  keys := 0
  rnd := 0
  events := []
  draws := 0

end Sys2Proof.Machine
end

