-- ==== Sys2Proof/Machine/Ops.lean ====
section
/-! DEFINITION. The named operations over memory, registers, the stack and the display; taking a fault as ONE shared
operation (spec/60_exceptions.md R157); fetching; ending a Step. -/

namespace Sys2Proof.Machine

/-! ## Memory (spec/20_memory.md) -/

/-- The canonical form from an address on: addresses rising and below 4096, no entry equal to the unlisted byte. -/
def Memory.wfFrom (lo : Nat) : Memory → Bool
  | [] => true
  | (a, b) :: m =>
    decide (lo ≤ a) && decide (a < Config.memSize) && b != Config.unlistedByte && Memory.wfFrom (a + 1) m

/-- The canonical form: equal memories are equal lists (notes/assumptions/4.md). -/
def Memory.wf (m : Memory) : Bool := Memory.wfFrom 0 m

/-- `MemRead(addr, 1)` (R9): the byte stored, or what an unlisted address reads as. No side effect (R50). -/
def Memory.read (a : Nat) : Memory → Byte
  | [] => Config.unlistedByte
  | (c, d) :: m => if a = c then d else Memory.read a m

/-- `MemWrite(addr, 1, v)` (R9): replaces the byte and keeps the canonical form. -/
def Memory.write (a : Nat) (b : Byte) : Memory → Memory
  | [] => if b = Config.unlistedByte then [] else [(a, b)]
  | (c, d) :: m =>
    if a < c then
      if b = Config.unlistedByte then (c, d) :: m else (a, b) :: (c, d) :: m
    else if a = c then
      if b = Config.unlistedByte then m else (a, b) :: m
    else (c, d) :: Memory.write a b m

/-- Bytes written at ascending addresses from `a` (R44). -/
def Memory.writeBytes (a : Nat) : List Byte → Memory → Memory
  | [], m => m
  | b :: bs, m => Memory.writeBytes (a + 1) bs (Memory.write a b m)

/-- `n` bytes read at ascending addresses from `a` (R44). -/
def Memory.readBytes (a n : Nat) (m : Memory) : List Byte := (List.range n).map (fun k => Memory.read (a + k) m)

/-- The bounds check of R46, on unbounded naturals: `len > 0 and a + len - 1 > 0xFFF`. -/
def rangeFaults (a : Word) (len : Nat) : Bool := decide (len > 0 ∧ a.toNat + len - 1 > 0xFFF)

/-- The address OutOfBounds reports (R47): `max(a, 0x1000)`. -/
def firstBadAddress (a : Word) : Nat := max a.toNat 0x1000

/-! ## Registers -/

/-- `V[r]` (R9, R10): one bank, none hard-wired. -/
def State.getV (s : State) (r : Reg) : Byte := s.v[r.toNat]'r.isLt

/-- `V[r] <- b` (R9, R10). -/
def State.setV (s : State) (r : Reg) (b : Byte) : State := { s with v := s.v.set r.toNat b r.isLt }

/-- `I <- w` (R13). -/
def State.setI (s : State) (w : Word) : State := { s with i := w }

/-- `DT <- b` (R18, R141). -/
def State.setDT (s : State) (b : Byte) : State := { s with dt := b }

/-- `ST <- b` (R18, R142). -/
def State.setST (s : State) (b : Byte) : State := { s with st := b }

/-- MEM replaced (R22). -/
def State.setMem (s : State) (m : Memory) : State := { s with mem := m }

/-- DISP replaced (R23). -/
def State.setDisp (s : State) (d : Display) : State := { s with disp := d }

/-! ## Ending a Step -/

/-- The end of an instruction that completes (R15): PC is written once, WAITING is cleared (R19), the Step answers
OK (R5). -/
def State.retire (target : Word) (s : State) : State :=
  { s with pc := target, waiting := false, status := .ok }

/-- The end of a wait-for-key Step that does not complete (R134): the sample is kept, WAITING is set, PC stays on the
instruction, the Step answers WAITING. -/
def State.keepWaiting (s : State) : State :=
  { s with waiting := true, keyPrev := s.keys, status := .waiting }

/-- The numeric code of a fault (R150, decision D11). -/
def CoreFault.code : CoreFault → BitVec 3
  | .unknownOpcode _ => 1
  | .stackUnderflow _ => 2
  | .stackOverflow _ => 3
  | .outOfBounds _ => 4

/-- ERR.info of a fault (R150): the word, the depth, or the lowest offending address. -/
def CoreFault.info : CoreFault → Word
  | .unknownOpcode w => w
  | .stackUnderflow d => BitVec.ofNat 16 d
  | .stackOverflow d => BitVec.ofNat 16 d
  | .outOfBounds a => BitVec.ofNat 16 a

/-- TAKING A FAULT (R157), on the state before the Step's writes: ERR <- (1, code, pc0, info), the Step answers
FAULT(code, pc0, info), and nothing else changes, PC included. -/
def State.raise (f : CoreFault) (s : State) : State :=
  { s with err := { valid := true, code := f.code, pc := s.pc, info := f.info },
           status := .fault f.code s.pc f.info }

/-- A Step requested in FAULTED (R15, R159): refused, the latched fault answered again, nothing else changed. -/
def State.refuseStep (s : State) : State :=
  { s with status := .fault s.err.code s.err.pc s.err.info }

/-- An access of `len` bytes at `a`: the fault of R46 and R47, or `k`, the state after the access. -/
def State.guardRange (s : State) (a : Word) (len : Nat) (k : State) : State :=
  if rangeFaults a len then s.raise (.outOfBounds (firstBadAddress a)) else k

/-! ## Fetch (spec/20_memory.md R43, R46; spec/10_state.md R15) -/

/-- The word at PC, or the fault of a fetch outside memory. -/
def State.fetchWord (s : State) : Except CoreFault Word :=
  if rangeFaults s.pc 2 then .error (.outOfBounds (firstBadAddress s.pc))
  else .ok (bytesWord (Memory.read s.pc.toNat s.mem) (Memory.read (s.pc.toNat + 1) s.mem))

/-- Fetch, then decode (R156): the instruction at PC, or the first fault in stage order. -/
def State.fetchDecode (s : State) : Except CoreFault Instr :=
  match s.fetchWord with
  | .error f => .error f
  | .ok w =>
    match decodeWord w with
    | .ok i => .ok i
    | .error _ => .error (.unknownOpcode w)

/-! ## The call stack (R17) -/

/-- Push: StackOverflow(16) on a full stack, else the entry is written, SP rises and execution goes on at `target`. -/
def State.pushAndJump (ret target : Word) (s : State) : State :=
  if h : s.sp.val < 16 then
    { s with stack := s.stack.set s.sp.val ret h, sp := ⟨s.sp.val + 1, by omega⟩ }.retire target
  else s.raise (.stackOverflow 16)

/-- Pop: StackUnderflow(0) on an empty stack, else SP falls and PC is the entry there, which is not erased. -/
def State.popAndJump (s : State) : State :=
  if h : 0 < s.sp.val then
    { s with sp := ⟨s.sp.val - 1, by omega⟩ }.retire (s.stack[s.sp.val - 1]'(by omega))
  else s.raise (.stackUnderflow 0)

/-! ## Register blocks (R124, R125) -/

/-- The bytes of V0 to Vx. -/
def State.blockBytes (s : State) (x : Reg) : List Byte := s.v.toList.take (x.toNat + 1)

/-- `V[i] <- MemRead(p + i, 1)` for i = 0 .. n - 1, in that order. -/
def State.loadBlock (p : Nat) : Nat → State → State
  | 0, s => s
  | n + 1, s => (State.loadBlock p n s).setV (BitVec.ofNat 4 n) (Memory.read (p + n) s.mem)

/-! ## The display (R23, R131) -/

/-- `DISP[r][c]`. -/
def Display.pixel (d : Display) (r : Fin 32) (c : Fin 64) : Bool := (d[r.val]'r.isLt)[c.val]'c.isLt

/-- `DISP[r][c] <- DISP[r][c] ^ 1`. -/
def Display.flip (d : Display) (r : Fin 32) (c : Fin 64) : Display :=
  d.set r.val ((d[r.val]'r.isLt).set c.val (!Display.pixel d r c) c.isLt) r.isLt

/-- A row number modulo 32 (R131, decision D25). -/
def wrapRow (n : Nat) : Fin 32 := Fin.ofNat 32 n

/-- A column number modulo 64 (R131, decision D25). -/
def wrapCol (n : Nat) : Fin 64 := Fin.ofNat 64 n

/-- One set sprite bit: a collision if the pixel is on, then the pixel is inverted. -/
def plotPixel (r : Fin 32) (c : Fin 64) (acc : Display × Bool) : Display × Bool :=
  (Display.flip acc.1 r c, acc.2 || Display.pixel acc.1 r c)

/-- Bit `7 - col` of a sprite byte belongs to column `col` of the row: bit 7 is leftmost (R131, decision D26). -/
def spriteBit (b : Byte) (col : Nat) : Bool := b.getLsbD (7 - col)

/-- One sprite row: the inner loop of R131. -/
def plotRow (x0 : Nat) (r : Fin 32) (b : Byte) (acc : Display × Bool) : Display × Bool :=
  (List.range 8).foldl (fun acc col => if spriteBit b col then plotPixel r (wrapCol (x0 + col)) acc else acc) acc

/-- The sprite rows from row `y` on: the outer loop of R131. -/
def plotRows (x0 : Nat) : Nat → List Byte → Display × Bool → Display × Bool
  | _, [], acc => acc
  | y, b :: bs, acc => plotRows x0 (y + 1) bs (plotRow x0 (wrapRow y) b acc)

/-! ## Keys (R24, R134, R135) -/

/-- `keys[k]`. -/
def State.keyDown (s : State) (k : Reg) : Bool := s.keys.getLsbD k.toNat

/-- Keys up at the last sample and down now. -/
def State.keyEdges (s : State) : Keys := s.keys &&& ~~~s.keyPrev

/-- The least i with `edges[i] = 1`, if there is one. -/
def lowestKey (edges : Keys) : Option Nat := (List.range 16).find? (fun i => edges.getLsbD i)

/-! ## Outputs -/

/-- `sound_on` (R26, R144). -/
def State.soundOn (s : State) : Bool := s.st != 0

/-- READY, WAIT_KEY or FAULTED (R21). -/
def State.condition (s : State) : Condition :=
  if s.err.valid then .faulted else if s.waiting then .waitKey else .ready

/-- The two-bit `status` output (R27): 0 OK, 1 WAITING, 2 FAULT. -/
def Status.port : Status → BitVec 2
  | .ok => 0
  | .waiting => 1
  | .fault _ _ _ => 2

end Sys2Proof.Machine
end

