-- ==== Sys2Proof/Machine/Operands.lean ====
section
/-! DEFINITION. The operand forms: addresses of the next instruction, zero-extended fields, digits and indices taken
from a register (spec/30_encoding.md R63, spec/41_skip.md, spec/43_index_memory.md, spec/44_display_keypad.md R135). -/

namespace Sys2Proof.Machine

/-- `npc = pc0 + 2` (R9), the address of the next sequential instruction. -/
def State.npc (s : State) : Word := s.pc + 2

/-- Where a skip goes: `npc + 2` on its condition, else `npc` (41_skip.md). -/
def State.skipTarget (s : State) (c : Bool) : Word := if c then s.npc + 2 else s.npc

/-- `zext_16(nnn)` (R63). -/
def zextAddr (nnn : Addr) : Word := nnn.setWidth 16

/-- `zext_16` of a byte (R63, R84, R121). -/
def zextByte (b : Byte) : Word := b.setWidth 16

/-- The low nibble of a register as a digit (R122, decision D20) or as a key index (R135, decision D21). -/
def lowNibble (b : Byte) : BitVec 4 := b.extractLsb' 0 4

/-- `FONT_BASE + 5 * d`, the address of glyph d (R122). -/
def glyphAddress (d : BitVec 4) : Word := Config.fontBase + Config.fontGlyphBytes * d.setWidth 16

/-- The decimal digits of a byte, hundreds first (R123, decision D27). -/
def bcdDigits (b : Byte) : List Byte :=
  [BitVec.ofNat 8 (b.toNat / 100), BitVec.ofNat 8 (b.toNat / 10 % 10), BitVec.ofNat 8 (b.toNat % 10)]

end Sys2Proof.Machine
end

