-- ==== Sys2Proof/Machine/ControlFlow.lean ====
section
/-! DEFINITION. Control transfer: spec/40_control_flow.md. -/

namespace Sys2Proof.Machine

/-- The outcome of a meaning. Every meaning of this hardware answers a next state (notes/assumptions/6.md). -/
abbrev Result := Host.Outcome State Fault Refusal

/-- SYS nnn (R80): no-operation for every nnn (decision D31). -/
def execSys (_nnn : Addr) (s : State) : Result := .next (s.retire s.npc)

/-- RET (R81). -/
def execRet (s : State) : Result := .next s.popAndJump

/-- JP nnn (R82). -/
def execJp (nnn : Addr) (s : State) : Result := .next (s.retire (zextAddr nnn))

/-- CALL nnn (R83): the pushed address is `npc`. -/
def execCall (nnn : Addr) (s : State) : Result := .next (s.pushAndJump s.npc (zextAddr nnn))

/-- JP V0, nnn (R84): the sum is not masked. -/
def execJpV0 (nnn : Addr) (s : State) : Result := .next (s.retire (zextAddr nnn + zextByte (s.getV 0x0)))

end Sys2Proof.Machine
end

