-- ==== Sys2Proof/Machine/Flags.lean ====
section
/-! DEFINITION. The flag computations of VF (spec/10_state.md R11, R12; spec/42_alu.md R106 to R112). -/

namespace Sys2Proof.Machine

/-- VF, the one flag (R11). -/
def vf : Reg := 0xF

/-- The flag value: 0x00 or 0x01 (R11). -/
def flagByte (f : Bool) : Byte := if f then 0x01 else 0x00

/-- `V[15] <- flag`. -/
def State.setFlag (s : State) (f : Bool) : State := s.setV vf (flagByte f)

/-- Flag first, data second (R12, decision D13): with x = F the data remains. -/
def State.writeFlagged (s : State) (f : Bool) (x : Reg) (b : Byte) : State := (s.setFlag f).setV x b

/-- Carry of the untruncated sum (R106): `a + b > 255`. -/
def carryOut (a b : Byte) : Bool := decide (a.toNat + b.toNat > 255)

/-- No borrow in `a - b` (R107, R108): `a >= b`. -/
def noBorrow (a b : Byte) : Bool := decide (a.toNat ≥ b.toNat)

/-- The bit SHR shifts out (R109): `a[0]`. -/
def shrOut (a : Byte) : Bool := a.getLsbD 0

/-- The bit SHL shifts out (R110): `a[7]`. -/
def shlOut (a : Byte) : Bool := a.getLsbD 7

end Sys2Proof.Machine
end

