-- ==== Sys2Proof/Machine/Alu.lean ====
section
/-! DEFINITION. Load, arithmetic, bitwise, shift and random instructions: spec/42_alu.md. Operands are read from the
state before any write (R12). -/

namespace Sys2Proof.Machine

/-- LD Vx, kk (R100). -/
def execLdImm (x : Reg) (kk : Byte) (s : State) : Result := .next ((s.setV x kk).retire s.npc)

/-- ADD Vx, kk (R101): wraps, VF is not written. -/
def execAddImm (x : Reg) (kk : Byte) (s : State) : Result := .next ((s.setV x (s.getV x + kk)).retire s.npc)

/-- LD Vx, Vy (R102). -/
def execLdReg (x y : Reg) (s : State) : Result := .next ((s.setV x (s.getV y)).retire s.npc)

/-- OR Vx, Vy (R103): VF is not written (decision D17). -/
def execOrReg (x y : Reg) (s : State) : Result := .next ((s.setV x (s.getV x ||| s.getV y)).retire s.npc)

/-- AND Vx, Vy (R104): VF is not written (decision D17). -/
def execAndReg (x y : Reg) (s : State) : Result := .next ((s.setV x (s.getV x &&& s.getV y)).retire s.npc)

/-- XOR Vx, Vy (R105): VF is not written (decision D17). -/
def execXorReg (x y : Reg) (s : State) : Result := .next ((s.setV x (s.getV x ^^^ s.getV y)).retire s.npc)

/-- ADD Vx, Vy (R106): VF = carry. -/
def execAddReg (x y : Reg) (s : State) : Result :=
  .next ((s.writeFlagged (carryOut (s.getV x) (s.getV y)) x (s.getV x + s.getV y)).retire s.npc)

/-- SUB Vx, Vy (R107): VF = no borrow in V[x] - V[y]. -/
def execSub (x y : Reg) (s : State) : Result :=
  .next ((s.writeFlagged (noBorrow (s.getV x) (s.getV y)) x (s.getV x - s.getV y)).retire s.npc)

/-- SHR Vx (R109): in place, y ignored (decision D14). -/
def execShr (x _y : Reg) (s : State) : Result :=
  .next ((s.writeFlagged (shrOut (s.getV x)) x (s.getV x >>> 1)).retire s.npc)

/-- SUBN Vx, Vy (R108): VF = no borrow in V[y] - V[x]. -/
def execSubn (x y : Reg) (s : State) : Result :=
  .next ((s.writeFlagged (noBorrow (s.getV y) (s.getV x)) x (s.getV y - s.getV x)).retire s.npc)

/-- SHL Vx (R110): in place, y ignored (decision D14). -/
def execShl (x _y : Reg) (s : State) : Result :=
  .next ((s.writeFlagged (shlOut (s.getV x)) x (s.getV x <<< 1)).retire s.npc)

/-- RND Vx, kk (R111): the random byte of this Step under the mask. -/
def execRnd (x : Reg) (kk : Byte) (s : State) : Result := .next ((s.setV x (s.rnd &&& kk)).retire s.npc)

end Sys2Proof.Machine
end

