-- ==== Sys2Proof/Machine/DisplayKeypad.lean ====
section
/-! DEFINITION. Display and keypad instructions: spec/44_display_keypad.md. -/

namespace Sys2Proof.Machine

/-- CLS (R130). -/
def execCls (s : State) : Result := .next ((s.setDisp Display.dark).retire s.npc)

/-- The display and the collision flag after a sprite of `n` rows at I is drawn at (V[x], V[y]) (R131). -/
def State.drawn (s : State) (x y : Reg) (n : Nat) : Display × Bool :=
  plotRows (s.getV x).toNat (s.getV y).toNat (Memory.readBytes s.i.toNat n s.mem) (s.disp, false)

/-- DRW Vx, Vy, n (R131): VF is always written when the access does not fault. -/
def execDrw (x y : Reg) (n : BitVec 4) (s : State) : Result :=
  .next (s.guardRange s.i n.toNat
    (((s.setDisp (s.drawn x y n.toNat).1).setFlag (s.drawn x y n.toNat).2).retire s.npc))

/-- SKP Vx (R132, R135). -/
def execSkp (x : Reg) (s : State) : Result :=
  .next (s.retire (s.skipTarget (s.keyDown (lowNibble (s.getV x)))))

/-- SKNP Vx (R133, R135). -/
def execSknp (x : Reg) (s : State) : Result :=
  .next (s.retire (s.skipTarget (!s.keyDown (lowNibble (s.getV x)))))

/-- LD Vx, K (R134): the first Step of a wait samples; a later one completes on the lowest key that went down since
the last sample, and else keeps waiting. -/
def execLdVxK (x : Reg) (s : State) : Result :=
  .next (
    if s.waiting then
      match lowestKey s.keyEdges with
      | some k => (s.setV x (BitVec.ofNat 8 k)).retire s.npc
      | none => s.keepWaiting
    else s.keepWaiting)

end Sys2Proof.Machine
end

