-- ==== Sys2Proof/Machine/IndexMemory.lean ====
section
/-! DEFINITION. The index register and the memory instructions: spec/43_index_memory.md. The whole range of an access
is checked before any of it is made (R46 to R48). -/

namespace Sys2Proof.Machine

/-- LD I, nnn (R120). -/
def execLdI (nnn : Addr) (s : State) : Result := .next ((s.setI (zextAddr nnn)).retire s.npc)

/-- ADD I, Vx (R121): modulo 65536, VF is not written (decision D15). -/
def execAddI (x : Reg) (s : State) : Result := .next ((s.setI (s.i + zextByte (s.getV x))).retire s.npc)

/-- LD F, Vx (R122). -/
def execLdF (x : Reg) (s : State) : Result := .next ((s.setI (glyphAddress (lowNibble (s.getV x)))).retire s.npc)

/-- LD B, Vx (R123). -/
def execLdB (x : Reg) (s : State) : Result :=
  .next (s.guardRange s.i 3
    ((s.setMem (Memory.writeBytes s.i.toNat (bcdDigits (s.getV x)) s.mem)).retire s.npc))

/-- LD [I], Vx (R124): x + 1 bytes, I unchanged (decision D16). -/
def execStoreRegs (x : Reg) (s : State) : Result :=
  .next (s.guardRange s.i (x.toNat + 1)
    ((s.setMem (Memory.writeBytes s.i.toNat (s.blockBytes x) s.mem)).retire s.npc))

/-- LD Vx, [I] (R125): x + 1 bytes, I unchanged (decision D16). -/
def execLoadRegs (x : Reg) (s : State) : Result :=
  .next (s.guardRange s.i (x.toNat + 1) ((State.loadBlock s.i.toNat (x.toNat + 1) s).retire s.npc))

end Sys2Proof.Machine
end

