-- ==== Sys2Proof/Machine/Skip.lean ====
section
/-! DEFINITION. Conditional skips on registers: spec/41_skip.md. -/

namespace Sys2Proof.Machine

/-- SE Vx, kk (R90). -/
def execSeImm (x : Reg) (kk : Byte) (s : State) : Result := .next (s.retire (s.skipTarget (s.getV x == kk)))

/-- SNE Vx, kk (R91). -/
def execSneImm (x : Reg) (kk : Byte) (s : State) : Result := .next (s.retire (s.skipTarget (s.getV x != kk)))

/-- SE Vx, Vy (R92). -/
def execSeReg (x y : Reg) (s : State) : Result := .next (s.retire (s.skipTarget (s.getV x == s.getV y)))

/-- SNE Vx, Vy (R93). -/
def execSneReg (x y : Reg) (s : State) : Result := .next (s.retire (s.skipTarget (s.getV x != s.getV y)))

end Sys2Proof.Machine
end

