-- ==== Sys2Proof/Machine/Timers.lean ====
section
/-! DEFINITION. Timer instructions: spec/45_timers.md R140 to R142. -/

namespace Sys2Proof.Machine

/-- LD Vx, DT (R140). -/
def execLdVxDT (x : Reg) (s : State) : Result := .next ((s.setV x s.dt).retire s.npc)

/-- LD DT, Vx (R141). -/
def execLdDTVx (x : Reg) (s : State) : Result := .next ((s.setDT (s.getV x)).retire s.npc)

/-- LD ST, Vx (R142). -/
def execLdSTVx (x : Reg) (s : State) : Result := .next ((s.setST (s.getV x)).retire s.npc)

end Sys2Proof.Machine
end

