-- ==== Sys2Proof/Machine/Events.lean ====
section
/-! DEFINITION. The driver's events (spec/00_scope.md R5, R6): taking the next one, Reset (spec/70_reset_and_hazards.md
R180), Tick (spec/45_timers.md R143), presenting a Step's inputs; and what the host
writes before the first Step (R182, R183). -/

namespace Sys2Proof.Machine

/-- The driver's next event: the oldest pending one, or, with none pending, a Step whose inputs are free values
(notes/assumptions/1.md, 3.md). -/
def State.nextEvent (s : State) : Event :=
  match s.events with
  | [] => .step (Config.freeKeys s.draws) (Config.freeRnd s.draws)
  | e :: _ => e

/-- The state once the driver's next event is taken from the pending ones. -/
def State.dropEvent (s : State) : State :=
  match s.events with
  | [] => { s with draws := s.draws + 1 }
  | _ :: es => { s with events := es }

/-- The inputs a Step samples (R24, R25). -/
def State.present (keys : Keys) (rnd : Byte) (s : State) : State := { s with keys := keys, rnd := rnd }

/-- The Reset event (R180): every piece of core state and DISP at its value of R28, MEM not changed; the inputs and the
driver's plan are not the core's (notes/assumptions/14.md). -/
def State.resetEvent (s : State) : State :=
  { State.reset with mem := s.mem, keys := s.keys, rnd := s.rnd, events := s.events, draws := s.draws }

/-- One counter in a Tick (R143): down by one, held at zero. -/
def countDown (b : Byte) : Byte := if b = 0 then 0 else b - 1

/-- The Tick event (R143): both timers, in every condition of the core, and nothing else. -/
def State.tickEvent (s : State) : State := { s with dt := countDown s.dt, st := countDown s.st }

/-- The loader (R182): bytes written into MEM from an address on, before the first Step. -/
def State.load (base : Nat) (image : List Byte) (s : State) : State :=
  s.setMem (Memory.writeBytes base image s.mem)

/-- The host's write of DISP, pixel by pixel as it likes, before the first Step (70_reset_and_hazards.md R183 (c); D35:
no later one; notes/assumptions/19.md). -/
def State.loadDisplay (d : Display) (s : State) : State := s.setDisp d

/-- The state the host leaves before the first Step (R182, R183): the font at FONT_BASE, the program at 0x200, and DISP as
the host wrote it (`Display.dark` where it left it as Reset did). -/
def State.launch (font program : List Byte) (screen : Display) : State :=
  ((State.reset.load Config.fontBase.toNat font).load Config.resetPc.toNat program).loadDisplay screen

end Sys2Proof.Machine
end

