-- ==== Sys2Proof/Machine/Cycle.lean ====
section
/-! DEFINITION. The Step event (spec/10_state.md R15) and one event of the driver (spec/00_scope.md R5). -/

namespace Sys2Proof.Machine

/-- The Step event, its inputs already presented: refused in FAULTED, else fetch, decode, execute (R15, R21). -/
def State.stepEvent (s : State) : Host.Outcome State Fault Refusal :=
  if s.err.valid then .next s.refuseStep
  else
    match s.fetchDecode with
    | .error f => .next (s.raise f)
    | .ok i => exec i s

/-- An event performed (R5). -/
def State.perform (e : Event) (s : State) : Host.Outcome State Fault Refusal :=
  match e with
  | .reset => .next s.resetEvent
  | .step keys rnd => (s.present keys rnd).stepEvent
  | .tick => .next s.tickEvent

/-- Ready to run the instruction at PC: PC inside memory, no fault latched, the next event a Step. On State.reset this
is the identity (notes/assumptions/8.md). -/
def State.readyToFetch (s : State) : State :=
  { s with pc := if rangeFaults s.pc 2 then Config.resetPc else s.pc,
           err := if s.err.valid then Err.clear else s.err,
           events := s.events.dropWhile (fun e => match e with | .step _ _ => false | _ => true) }

/-- The bytes of a table-numbered word placed where the next Step fetches. -/
def State.placeWord (s : State) (nbits w : Nat) : State :=
  s.readyToFetch.load s.readyToFetch.pc.toNat (tableBytes nbits w)

end Sys2Proof.Machine
end

