-- ==== Sys2Proof/Machine/Step.lean ====
section
/-! DEFINITION. One step of the machine: the driver's next event (spec/00_scope.md R5). -/

namespace Sys2Proof.Machine

/-- One step: the next event of the driver is taken and performed. -/
def step (s : State) : Host.Outcome State Fault Refusal := s.dropEvent.perform s.nextEvent

/-- `s` with a table-numbered word where its next step fetches (notes/assumptions/8.md). -/
def State.withFetchWord (s : State) (nbits w : Nat) : State := s.placeWord nbits w

end Sys2Proof.Machine
end

