-- ==== Sys2Proof/Safety.lean ====
section
/-! DEFINITION. What counts as a safe state, the invariant of the machine, and the vocabulary of the claims: what an
instruction leaves unchanged, which words are illegal, which pixels a sprite covers. -/

namespace Sys2Proof.Safety

open Sys2Proof.Machine

/-! ## Safe states and the invariant -/

/-- No fault is latched: the premise of every claim about a program (R159, R183). -/
def noFault (s : State) : Prop := s.err.valid = false

/-- The launch premises of R183: Reset has been performed (a), no fault is latched (b), and of what Reset set the host may
have written DISP since, as it may have written MEM (c): both are any memory and any display. -/
def launched (s : State) : Prop := s.resetEvent.loadDisplay s.disp = s ∧ s.mem.wf = true

/-- PC never exceeds 0x10FE (R16). -/
def pcBounded (s : State) : Prop := s.pc.toNat ≤ 0x10FE

/-- A live stack entry is a former `npc` (R16, R17): between 2 and 0x1000. -/
def stackHoldsReturns (s : State) : Prop :=
  ∀ (k : Nat) (h : k < 16), k < s.sp.val → 2 ≤ s.stack[k].toNat ∧ s.stack[k].toNat ≤ 0x1000

/-- ERR (R20, R150, R157): clear, or a code 1 to 4 with the address where PC still stands, as the Step answered it. -/
def errConsistent (s : State) : Prop :=
  (s.err.valid = false → s.err = Err.clear ∧ (s.status = .ok ∨ s.status = .waiting)) ∧
  (s.err.valid = true → 1 ≤ s.err.code.toNat ∧ s.err.code.toNat ≤ 4 ∧ s.err.pc = s.pc ∧
    s.status = .fault s.err.code s.err.pc s.err.info)

/-- WAIT_KEY (R19, R21): exactly after a Step that answered WAITING, and then PC points at an LD Vx, K. -/
def waitConsistent (s : State) : Prop :=
  (s.waiting = true ↔ s.status = .waiting) ∧
  (s.waiting = true → ∃ x, s.fetchDecode = .ok (.ldVxK x))

/-- The invariant of the machine. -/
structure Inv (s : State) : Prop where
  mem : s.mem.wf = true
  pc : pcBounded s
  stack : stackHoldsReturns s
  err : errConsistent s
  wait : waitConsistent s

/-! ## What stays unchanged from `s` to `t` -/

/-- Every V register but those named. -/
def sameRegsBut (ds : List Reg) (s t : State) : Prop := ∀ r, r ∉ ds → t.getV r = s.getV r

/-- Every byte of memory. -/
def sameMemory (s t : State) : Prop := ∀ a, Memory.read a t.mem = Memory.read a s.mem

/-- Every byte of memory but the `n` bytes from `lo` on. -/
def sameMemoryOutside (lo n : Nat) (s t : State) : Prop :=
  ∀ a, (a < lo ∨ lo + n ≤ a) → Memory.read a t.mem = Memory.read a s.mem

/-- Every pixel. -/
def sameDisplay (s t : State) : Prop := ∀ r c, Display.pixel t.disp r c = Display.pixel s.disp r c

/-- The stack and its depth. -/
def sameStack (s t : State) : Prop := t.sp = s.sp ∧ t.stack = s.stack

/-- Both timers. -/
def sameTimers (s t : State) : Prop := t.dt = s.dt ∧ t.st = s.st

/-- The fault record and KEY_PREV. -/
def sameHidden (s t : State) : Prop := t.err = s.err ∧ t.keyPrev = s.keyPrev

/-- The inputs and the driver's plan. -/
def sameDriver (s t : State) : Prop :=
  t.keys = s.keys ∧ t.rnd = s.rnd ∧ t.events = s.events ∧ t.draws = s.draws

/-- What an instruction that touches V registers only leaves unchanged; WAITING, the status and PC are said apart. -/
def onlyRegs (ds : List Reg) (s t : State) : Prop :=
  sameRegsBut ds s t ∧ t.i = s.i ∧ sameMemory s t ∧ sameDisplay s t ∧ sameStack s t ∧ sameTimers s t ∧
  sameHidden s t ∧ sameDriver s t

/-- The end of a completing Step (R15, R19): PC at the target, WAITING 0, answer OK. -/
def completedAt (target : Nat) (t : State) : Prop :=
  t.pc.toNat = target ∧ t.waiting = false ∧ t.status = .ok

/-- The address of the next sequential instruction as a number (R9: `(pc0 + 2) mod 65536`). -/
def nextPc (s : State) : Nat := (s.pc.toNat + 2) % 65536

/-- Where a taken skip goes. -/
def skipPc (s : State) : Nat := (s.pc.toNat + 4) % 65536

/-- Everything but ERR and the status, the inputs and the driver's plan (R157). -/
def sameMachine (s t : State) : Prop :=
  t.v = s.v ∧ t.i = s.i ∧ t.pc = s.pc ∧ t.stack = s.stack ∧ t.sp = s.sp ∧ t.dt = s.dt ∧ t.st = s.st ∧
  t.waiting = s.waiting ∧ t.keyPrev = s.keyPrev ∧ t.mem = s.mem ∧ t.disp = s.disp

/-- `t` has latched and answered the fault (code, pc, info) (R157). -/
def latched (code : BitVec 3) (pc : Word) (info : Nat) (t : State) : Prop :=
  t.err.valid = true ∧ t.err.code = code ∧ t.err.pc = pc ∧ t.err.info.toNat = info ∧
  t.status = .fault t.err.code t.err.pc t.err.info

/-- `t` is `s` with the fault (code, pc0, info) taken (R157). -/
def faultTaken (code : BitVec 3) (info : Nat) (s t : State) : Prop :=
  latched code s.pc info t ∧ sameMachine s t ∧ sameDriver s t

/-! ## Encoding -/

/-- The list of R71. -/
def illegalWord (w : Word) : Prop :=
  (fieldOp w = 0x5 ∧ fieldN w ≠ 0x0) ∨
  (fieldOp w = 0x8 ∧ fieldN w ∈ [0x8, 0x9, 0xA, 0xB, 0xC, 0xD, (0xF : BitVec 4)]) ∨
  (fieldOp w = 0x9 ∧ fieldN w ≠ 0x0) ∨
  (fieldOp w = 0xE ∧ fieldKK w ∉ [0x9E, (0xA1 : Byte)]) ∨
  (fieldOp w = 0xF ∧ fieldKK w ∉ [0x07, 0x0A, 0x15, 0x18, 0x1E, 0x29, 0x33, 0x55, (0x65 : Byte)])

/-- The decoder takes the word. -/
def accepted (w : Word) : Bool :=
  match decodeWord w with
  | .ok _ => true
  | .error _ => false

/-- How many of the 4096 words of a family the decoder takes. -/
def legalWordsOfFamily (op : Nat) : Nat :=
  ((List.range 4096).filter (fun r => accepted (BitVec.ofNat 16 (op * 4096 + r)))).length

/-! ## Sprites -/

/-- Sprite row `row` has its bit for column `col` set (R131: bit 7 is the leftmost pixel). -/
def spriteBitAt (s : State) (row col : Nat) : Bool := (Memory.read (s.i.toNat + row) s.mem).getLsbD (7 - col)

/-- Pixel (r, c) is one that DRW Vx, Vy, n inverts (R131). -/
def spriteCovers (s : State) (x y : Reg) (n : Nat) (r : Fin 32) (c : Fin 64) : Prop :=
  ∃ row < n, ∃ col < 8, spriteBitAt s row col = true ∧
    c.val = ((s.getV x).toNat + col) % 64 ∧ r.val = ((s.getV y).toNat + row) % 32

/-! ## Classes of instructions -/

/-- The instructions that read the keypad (R24). -/
def readsKeys : Instr → Bool
  | .skp _ | .sknp _ | .ldVxK _ => true
  | _ => false

/-- The instruction that reads the random byte (R25). -/
def readsRnd : Instr → Bool
  | .rnd _ _ => true
  | _ => false

/-- The instructions that read or write a timer (R18). -/
def usesTimers : Instr → Bool
  | .ldVxDT _ | .ldDTVx _ | .ldSTVx _ => true
  | _ => false

/-- The six instructions that write VF as a flag (R11). -/
def writesFlag : Instr → Bool
  | .addReg _ _ | .sub _ _ | .subn _ _ | .shr _ _ | .shl _ _ | .drw _ _ _ => true
  | _ => false

/-- The V registers an instruction writes as data (42_alu.md, R125, R134, R140). -/
def dataDests : Instr → List Reg
  | .ldImm x _ | .addImm x _ | .rnd x _ => [x]
  | .ldReg x _ | .orReg x _ | .andReg x _ | .xorReg x _ => [x]
  | .addReg x _ | .sub x _ | .shr x _ | .subn x _ | .shl x _ => [x]
  | .ldVxDT x | .ldVxK x => [x]
  | .loadRegs x => (List.range (x.toNat + 1)).map (BitVec.ofNat 4)
  | _ => []

/-- The bytes of memory an instruction reads or writes as data: how many, from I on (R46, R49). -/
def accessLength : Instr → Nat
  | .drw _ _ n => n.toNat
  | .ldB _ => 3
  | .storeRegs x => x.toNat + 1
  | .loadRegs x => x.toNat + 1
  | _ => 0

end Sys2Proof.Safety
end

