-- ==== Sys2Proof/Certificates/Slice0/Obligations.lean ====
section
/-! DEFINITION. The statements for the provers. Where a docstring names a decision D<n> of spec/92_eei_decisions.md, that
clause is a choice the spec made itself, followed by the model (notes/assumptions/13.md). The events, the inputs and the
status held in State are the model's form of R5 (notes/assumptions/1.md, 2.md, 5.md). -/

open Sys2Proof Sys2Proof.Machine Sys2Proof.Safety

/-! ## Encoding and decoding -/

/-- A few words of the decoder table T-DEC of spec/95_test_vectors.md.
(0x512F: decision D18.) -/
def Obligations.SpecWordsDecodeAsListed : Prop :=
  decodeWord 0x00E0 = .ok .cls ∧ decodeWord 0x00EE = .ok .ret ∧ decodeWord 0x00E1 = .ok (.sys 0x0E1) ∧
  decodeWord 0x2FFF = .ok (.call 0xFFF) ∧ decodeWord 0x3A7F = .ok (.seImm 0xA 0x7F) ∧
  decodeWord 0x8AB7 = .ok (.subn 0xA 0xB) ∧ decodeWord 0xD123 = .ok (.drw 0x1 0x2 0x3) ∧
  decodeWord 0xEFA1 = .ok (.sknp 0xF) ∧ decodeWord 0xF318 = .ok (.ldSTVx 0x3) ∧
  decodeWord 0xF755 = .ok (.storeRegs 0x7) ∧ decodeWord 0x512F = .error (.unknownOpcode 0x512F) ∧
  decodeWord 0x8ABF = .error (.unknownOpcode 0x8ABF) ∧ decodeWord 0xF075 = .error (.unknownOpcode 0xF075)

/-- Decoding an encoded well-formed instruction gives it back, every operand at every value, as a word and at the
front of any bytes. -/
def Obligations.DecodeOfEncodeIsIdentity : Prop :=
  ∀ i : Instr, i.WellFormed →
    decodeWord (encode i) = .ok i ∧ ∀ rest, decodeBytes (encodeBytes i ++ rest) = .ok (i, rest)

/-- A word that decodes is the encoding of what it decodes to, which is well formed: no bit is a don't-care of the
decoder and no two words share an instruction.
(Families 5 and 9 with a low nibble other than 0: decision D18.) -/
def Obligations.EncodeOfDecodeIsIdentity : Prop :=
  ∀ (w : Word) (i : Instr), decodeWord w = .ok i → i.WellFormed ∧ encode i = w

/-- R71: the illegal words are exactly those listed, each rejected under its own value; family by family the numbers
of legal words are those of the table in spec/95_test_vectors.md 2.1, 48048 in all, so 17488 are illegal.
(The count is what the spec derives; families 5 and 9: decision D18.) -/
def Obligations.DecoderRejectsExactlyTheIllegalWords : Prop :=
  (∀ w : Word, illegalWord w → decodeWord w = .error (.unknownOpcode w)) ∧
  (∀ w : Word, ¬ illegalWord w → ∃ i, decodeWord w = .ok i) ∧
  (List.range 16).map legalWordsOfFamily =
    [4096, 4096, 4096, 4096, 4096, 256, 4096, 4096, 2304, 256, 4096, 4096, 4096, 4096, 32, 144] ∧
  ((List.range 16).map legalWordsOfFamily).sum = 48048 ∧
  65536 - ((List.range 16).map legalWordsOfFamily).sum = 17488

/-- R65: the decoder picks the row of the opcode map that the word selects by mask and match, rows 1 and 2 before
row 3, and rejects exactly the words that select none; apart from that precedence no word selects two rows.
(Families 5 and 9: decision D18.) -/
def Obligations.DecoderAgreesWithOpcodeTable : Prop :=
  ∀ w : Word,
    (∀ i, decodeWord w = .ok i → tableRow w = some (rowOf i)) ∧
    (∀ e, decodeWord w = .error e → tableRow w = none) ∧
    (∀ r ∈ opcodeTable, ∀ r' ∈ opcodeTable, r.selects w = true → r'.selects w = true → r ≠ r' →
      (w = 0x00E0 ∨ w = 0x00EE) ∧ (r = rowOf (.sys 0) ∨ r' = rowOf (.sys 0)))

/-! ## The Step event, faults, Tick and Reset -/

/-- A Step whose fetch is inside memory and whose word decodes runs exactly that instruction, on the state with the
event taken and its inputs presented (R15, R43).
Taking the event and latching its inputs are the model's form of R5 (notes/assumptions/1.md, 2.md). -/
def Obligations.StepRunsTheDecodedInstruction : Prop :=
  ∀ (s : State) (keys : Keys) (rnd : Byte) (i : Instr),
    s.nextEvent = .step keys rnd → s.err.valid = false → s.pc.toNat ≤ 0x0FFE →
    decodeWord (Memory.read s.pc.toNat s.mem ++ Memory.read (s.pc.toNat + 1) s.mem) = .ok i →
    step s = exec i (s.dropEvent.present keys rnd)

/-- R46 to R48, R154: an access that would leave memory takes OutOfBounds with the lowest offending address before any
access is made: the fetch of a Step, and the data access of DRW, LD B, LD [I] and LD Vx, [I], which then write
nothing.
(Decisions D8, D9, D12; code 4: D11.) -/
def Obligations.OutOfBoundsIsTakenBeforeAnyAccess : Prop :=
  (∀ (s : State) (keys : Keys) (rnd : Byte),
    s.nextEvent = .step keys rnd → s.err.valid = false → s.pc.toNat > 0x0FFE →
    ∃ t, step s = .next t ∧ latched 4 s.pc (max s.pc.toNat 0x1000) t ∧ sameMachine s t) ∧
  (∀ (i : Instr) (s : State), accessLength i > 0 → s.i.toNat + accessLength i - 1 > 0xFFF →
    ∃ t, exec i s = .next t ∧ faultTaken 4 (max s.i.toNat 0x1000) s t)

/-- R150, R151, R157: a fetched word outside the instruction set takes UnknownOpcode with the word as its info
and changes nothing else.
(Nothing else changed: decision D9; code and record: decision D11.) -/
def Obligations.UnknownWordFaults : Prop :=
  ∀ (s : State) (keys : Keys) (rnd : Byte) (w : Word),
    s.nextEvent = .step keys rnd → s.err.valid = false → s.pc.toNat ≤ 0x0FFE →
    w = Memory.read s.pc.toNat s.mem ++ Memory.read (s.pc.toNat + 1) s.mem →
    decodeWord w = .error (.unknownOpcode w) →
    ∃ t, step s = .next t ∧ latched 1 s.pc w.toNat t ∧ sameMachine s t

/-- R157: whichever instruction a Step runs, if it ends with a fault latched that was not there, it has changed
nothing but ERR and its answer, and ERR.pc is the address of the faulting instruction.
(Decision D9.) -/
def Obligations.FaultingStepCommitsNothing : Prop :=
  ∀ s t : State, s.err.valid = false → step s = .next t → t.err.valid = true →
    latched t.err.code s.pc t.err.info.toNat t ∧ sameMachine s t

/-- R150, R155, R156: only a Step takes a fault, and each code comes with its one condition and its ERR.info, in stage
order: the fetch, then the decoder, then RET, CALL or a data access.
(Decisions D8, D11, D12; families 5 and 9: D18.) -/
def Obligations.EveryFaultHasItsCause : Prop :=
  ∀ s t : State, s.err.valid = false → step s = .next t → t.err.valid = true →
    (∃ keys rnd, s.nextEvent = .step keys rnd) ∧
    ((t.err.code = 4 ∧ s.pc.toNat > 0x0FFE ∧ t.err.info.toNat = max s.pc.toNat 0x1000) ∨
     (s.pc.toNat ≤ 0x0FFE ∧
      ∃ w : Word, w = Memory.read s.pc.toNat s.mem ++ Memory.read (s.pc.toNat + 1) s.mem ∧
        ((t.err.code = 1 ∧ illegalWord w ∧ t.err.info = w) ∨
         (t.err.code = 2 ∧ decodeWord w = .ok .ret ∧ s.sp.val = 0 ∧ t.err.info = 0) ∨
         (t.err.code = 3 ∧ (∃ nnn, decodeWord w = .ok (.call nnn)) ∧ s.sp.val = 16 ∧ t.err.info = 16) ∨
         (t.err.code = 4 ∧ t.err.info.toNat = max s.i.toNat 0x1000 ∧
           ∃ i, decodeWord w = .ok i ∧ accessLength i > 0 ∧ s.i.toNat + accessLength i - 1 > 0xFFF))))

/-- R159, R21: in FAULTED a Step changes no state and answers the latched fault again.
(Decision D10; that the refused request counts as a step of the model is notes/assumptions/7.md.) -/
def Obligations.FaultedRefusesEveryStep : Prop :=
  ∀ (s : State) (keys : Keys) (rnd : Byte),
    s.nextEvent = .step keys rnd → s.err.valid = true →
    ∃ t, step s = .next t ∧ sameMachine s t ∧ t.err = s.err ∧
      t.status = .fault s.err.code s.err.pc s.err.info

/-- R159, R160, R181: from FAULTED, after any number of events none of which is a Reset, the fault is still latched
and only the timers can have changed.
(Decisions D10, D29.) -/
def Obligations.OnlyResetLeavesFaulted : Prop :=
  ∀ (n : Nat) (s t : State), s.err.valid = true → (∀ e ∈ s.events, e ≠ .reset) →
    Host.Core.run core n s = .next t →
    t.err = s.err ∧ t.v = s.v ∧ t.i = s.i ∧ t.pc = s.pc ∧ t.stack = s.stack ∧ t.sp = s.sp ∧
    t.waiting = s.waiting ∧ t.keyPrev = s.keyPrev ∧ t.mem = s.mem ∧ t.disp = s.disp ∧
    t.dt.toNat ≤ s.dt.toNat ∧ t.st.toNat ≤ s.st.toNat

/-- R143: Tick takes one off each timer that is not 0, holds the others at 0, and changes nothing else, in every
condition of the core.
(Decision D29.) -/
def Obligations.TickDecrementsBothTimers : Prop :=
  ∀ s : State, s.nextEvent = .tick →
    ∃ t, step s = .next t ∧ t.dt.toNat = s.dt.toNat - 1 ∧ t.st.toNat = s.st.toNat - 1 ∧
      t.v = s.v ∧ t.i = s.i ∧ t.pc = s.pc ∧ sameStack s t ∧ t.waiting = s.waiting ∧ sameHidden s t ∧
      t.mem = s.mem ∧ t.disp = s.disp ∧ t.status = s.status ∧ t.keys = s.keys ∧ t.rnd = s.rnd

/-- A timer holding v reaches 0 after exactly v Ticks (R143). -/
def Obligations.TimerReachesZeroAfterItsTicks : Prop :=
  ∀ (k : Nat) (s t : State) (rest : List Event), s.events = List.replicate k .tick ++ rest →
    Host.Core.run core k s = .next t →
    t.dt.toNat = s.dt.toNat - k ∧ t.st.toNat = s.st.toNat - k ∧ t.events = rest

/-- R180: the Reset event puts the core and the display at their reset values from any state, and does not change
memory. (Decision D28.) What the
model does with the pending events, the inputs and the answer is its own choice, notes/assumptions/5.md and 14.md, and
is not stated. -/
def Obligations.ResetEventRestoresResetValues : Prop :=
  ∀ s : State, s.nextEvent = .reset →
    ∃ t, step s = .next t ∧ (∀ r, t.getV r = 0) ∧ t.i = 0 ∧ t.pc = 0x0200 ∧ t.sp.val = 0 ∧
      (∀ (k : Nat) (h : k < 16), t.stack[k] = 0) ∧ t.dt = 0 ∧ t.st = 0 ∧ t.waiting = false ∧ t.keyPrev = 0 ∧
      t.err = { valid := false, code := 0, pc := 0, info := 0 } ∧
      (∀ r c, Display.pixel t.disp r c = false) ∧ t.mem = s.mem

/-- R28: the machine right after reset.
(I, WAITING, KEY_PREV, ERR and DISP: decision D28.) -/
def Obligations.ResetStateHoldsTheSpecValues : Prop :=
  (∀ r, State.reset.getV r = 0) ∧ State.reset.i = 0 ∧ State.reset.pc = 0x0200 ∧ State.reset.sp.val = 0 ∧
  (∀ (k : Nat) (h : k < 16), State.reset.stack[k] = 0) ∧ State.reset.dt = 0 ∧ State.reset.st = 0 ∧
  State.reset.waiting = false ∧ State.reset.keyPrev = 0 ∧
  State.reset.err = { valid := false, code := 0, pc := 0, info := 0 } ∧
  (∀ r c, Display.pixel State.reset.disp r c = false) ∧ State.reset.soundOn = false

/-- R144, R26: `sound_on` is 1 exactly when ST is not 0.
(Decision D30.) -/
def Obligations.SoundIsOnExactlyWhenSTNonzero : Prop :=
  ∀ s : State, s.soundOn = true ↔ s.st.toNat ≠ 0

/-! ## Control transfer -/

/-- R80: SYS is a no-operation for every nnn.
(Decision D31.) -/
def Obligations.SysOnlyAdvancesPC : Prop :=
  ∀ (nnn : Addr) (s : State), ∃ t, exec (.sys nnn) s = .next t ∧ completedAt (nextPc s) t ∧ onlyRegs [] s t

/-- R81, R150, R152, R157: RET pops PC from the newest entry, which is not erased; on the empty stack it
takes StackUnderflow.
(That the faulting RET changes nothing: decision D9; code 2: decision D11.) -/
def Obligations.RetPopsThePC : Prop :=
  (∀ (k : Nat) (h : k < 16) (s : State), s.sp.val = k + 1 →
    ∃ t, exec .ret s = .next t ∧ completedAt s.stack[k].toNat t ∧ t.sp.val = k ∧ t.stack = s.stack ∧
      sameRegsBut [] s t ∧ t.i = s.i ∧ sameMemory s t ∧ sameDisplay s t ∧ sameTimers s t ∧ sameHidden s t ∧
      sameDriver s t) ∧
  (∀ s : State, s.sp.val = 0 → ∃ t, exec .ret s = .next t ∧ faultTaken 2 0 s t)

/-- R82: JP. -/
def Obligations.JpGoesToItsAddress : Prop :=
  ∀ (nnn : Addr) (s : State), ∃ t, exec (.jp nnn) s = .next t ∧ completedAt nnn.toNat t ∧ onlyRegs [] s t

/-- R83, R150, R153, R157: CALL pushes `npc` and jumps; on the full stack it takes StackOverflow.
(That the faulting CALL changes nothing: decision D9; code 3: decision D11.) -/
def Obligations.CallPushesTheReturnAddress : Prop :=
  (∀ (k : Nat) (h : k < 16) (nnn : Addr) (s : State), s.sp.val = k →
    ∃ t, exec (.call nnn) s = .next t ∧ completedAt nnn.toNat t ∧ t.sp.val = k + 1 ∧
      t.stack[k].toNat = nextPc s ∧ (∀ (j : Nat) (hj : j < 16), j ≠ k → t.stack[j] = s.stack[j]) ∧
      sameRegsBut [] s t ∧ t.i = s.i ∧ sameMemory s t ∧ sameDisplay s t ∧ sameTimers s t ∧ sameHidden s t ∧
      sameDriver s t) ∧
  (∀ (nnn : Addr) (s : State), s.sp.val = 16 → ∃ t, exec (.call nnn) s = .next t ∧ faultTaken 3 16 s t)

/-- A RET run after a CALL, with the stack as the CALL left it, goes to the instruction after the CALL and brings the
depth back (R81, R83: "`Call(0x300)` then `Return` restores `pc`"). -/
def Obligations.RetUndoesCall : Prop :=
  ∀ (nnn : Addr) (s t u : State), s.sp.val < 16 → exec (.call nnn) s = .next t →
    u.stack = t.stack → u.sp = t.sp →
    ∃ w, exec .ret u = .next w ∧ w.pc.toNat = nextPc s ∧ w.sp = s.sp

/-- R84: JP V0 adds V0, zero-extended, and does not mask the sum.
(Not masked to 12 bits: decision D8, resolution C2.) -/
def Obligations.JpV0AddsV0WithoutMasking : Prop :=
  ∀ (nnn : Addr) (s : State), ∃ t, exec (.jpV0 nnn) s = .next t ∧
    completedAt (nnn.toNat + (s.getV 0x0).toNat) t ∧ onlyRegs [] s t

/-- R90 to R93: the four skips compare raw bytes and change nothing but PC. -/
def Obligations.SkipsCompareAndAdvance : Prop :=
  ∀ (x y : Reg) (kk : Byte) (s : State),
    (∃ t, exec (.seImm x kk) s = .next t ∧ onlyRegs [] s t ∧
      completedAt (if (s.getV x).toNat = kk.toNat then skipPc s else nextPc s) t) ∧
    (∃ t, exec (.sneImm x kk) s = .next t ∧ onlyRegs [] s t ∧
      completedAt (if (s.getV x).toNat = kk.toNat then nextPc s else skipPc s) t) ∧
    (∃ t, exec (.seReg x y) s = .next t ∧ onlyRegs [] s t ∧
      completedAt (if (s.getV x).toNat = (s.getV y).toNat then skipPc s else nextPc s) t) ∧
    (∃ t, exec (.sneReg x y) s = .next t ∧ onlyRegs [] s t ∧
      completedAt (if (s.getV x).toNat = (s.getV y).toNat then nextPc s else skipPc s) t)

/-! ## Load, arithmetic, bitwise, shift, random -/

/-- R100, R102: the two loads of a register. -/
def Obligations.RegisterLoadsCopyTheirSource : Prop :=
  ∀ (x y : Reg) (kk : Byte) (s : State),
    (∃ t, exec (.ldImm x kk) s = .next t ∧ t.getV x = kk ∧ completedAt (nextPc s) t ∧ onlyRegs [x] s t) ∧
    (∃ t, exec (.ldReg x y) s = .next t ∧ t.getV x = s.getV y ∧ completedAt (nextPc s) t ∧ onlyRegs [x] s t)

/-- R101: ADD Vx, kk wraps modulo 256 and does not write VF (unless x = F, as data). -/
def Obligations.AddConstantWrapsWithoutFlag : Prop :=
  ∀ (x : Reg) (kk : Byte) (s : State), ∃ t, exec (.addImm x kk) s = .next t ∧
    (t.getV x).toNat = ((s.getV x).toNat + kk.toNat) % 256 ∧ (x ≠ 0xF → t.getV 0xF = s.getV 0xF) ∧
    completedAt (nextPc s) t ∧ onlyRegs [x] s t

/-- R103 to R105: bit by bit; VF is not written.
(Decision D17.) -/
def Obligations.BitwiseCombineTwoRegisters : Prop :=
  ∀ (x y : Reg) (s : State),
    (∃ t, exec (.orReg x y) s = .next t ∧ completedAt (nextPc s) t ∧ onlyRegs [x] s t ∧
      ∀ k, (t.getV x).getLsbD k = ((s.getV x).getLsbD k || (s.getV y).getLsbD k)) ∧
    (∃ t, exec (.andReg x y) s = .next t ∧ completedAt (nextPc s) t ∧ onlyRegs [x] s t ∧
      ∀ k, (t.getV x).getLsbD k = ((s.getV x).getLsbD k && (s.getV y).getLsbD k)) ∧
    (∃ t, exec (.xorReg x y) s = .next t ∧ completedAt (nextPc s) t ∧ onlyRegs [x] s t ∧
      ∀ k, (t.getV x).getLsbD k = ((s.getV x).getLsbD k ^^ (s.getV y).getLsbD k))

/-- R106: the sum modulo 256 and, where x is not F, VF = 1 exactly when the sum exceeds 255. With x = F the data
remains (R12).
(With x = F: flag before data, decision D13, resolution C1.) -/
def Obligations.AddRegistersSetsCarry : Prop :=
  ∀ (x y : Reg) (s : State), ∃ t, exec (.addReg x y) s = .next t ∧
    (t.getV x).toNat = ((s.getV x).toNat + (s.getV y).toNat) % 256 ∧
    (x ≠ 0xF → t.getV 0xF = if (s.getV x).toNat + (s.getV y).toNat > 255 then 1 else 0) ∧
    completedAt (nextPc s) t ∧ onlyRegs [x, 0xF] s t

/-- R107, R108: the difference modulo 256 and, where x is not F, VF = 1 exactly when there is no borrow.
With x = F the data remains (R12: flag before data, decision D13, resolution C1). -/
def Obligations.SubtractionsSetNotBorrow : Prop :=
  ∀ (x y : Reg) (s : State),
    (∃ t, exec (.sub x y) s = .next t ∧
      (t.getV x).toNat = ((s.getV x).toNat + 256 - (s.getV y).toNat) % 256 ∧
      (x ≠ 0xF → t.getV 0xF = if (s.getV x).toNat ≥ (s.getV y).toNat then 1 else 0) ∧
      completedAt (nextPc s) t ∧ onlyRegs [x, 0xF] s t) ∧
    (∃ t, exec (.subn x y) s = .next t ∧
      (t.getV x).toNat = ((s.getV y).toNat + 256 - (s.getV x).toNat) % 256 ∧
      (x ≠ 0xF → t.getV 0xF = if (s.getV y).toNat ≥ (s.getV x).toNat then 1 else 0) ∧
      completedAt (nextPc s) t ∧ onlyRegs [x, 0xF] s t)

/-- R109, R110: shifts of V[x] in place by one, whatever y is, and, where x is not F, VF = the bit shifted out.
With x = F the shifted data remains (R12). (In place, y ignored: decision D14; flag before data: decision D13.) -/
def Obligations.ShiftsMoveOneBitIntoVF : Prop :=
  ∀ (x y : Reg) (s : State),
    (∃ t, exec (.shr x y) s = .next t ∧ (t.getV x).toNat = (s.getV x).toNat / 2 ∧
      (x ≠ 0xF → (t.getV 0xF).toNat = (s.getV x).toNat % 2) ∧
      completedAt (nextPc s) t ∧ onlyRegs [x, 0xF] s t) ∧
    (∃ t, exec (.shl x y) s = .next t ∧ (t.getV x).toNat = 2 * (s.getV x).toNat % 256 ∧
      (x ≠ 0xF → (t.getV 0xF).toNat = (s.getV x).toNat / 128) ∧
      completedAt (nextPc s) t ∧ onlyRegs [x, 0xF] s t)

/-- R111: the random byte of the Step under the mask, for every value of that byte.
(The byte as a free input of the Step: decision D24.) -/
def Obligations.RndMasksTheRandomInput : Prop :=
  ∀ (x : Reg) (kk : Byte) (s : State), ∃ t, exec (.rnd x kk) s = .next t ∧
    (∀ k, (t.getV x).getLsbD k = (s.rnd.getLsbD k && kk.getLsbD k)) ∧
    completedAt (nextPc s) t ∧ onlyRegs [x] s t

/-! ## Index register and memory -/

/-- R120 to R122: the three instructions that set I; VF and every V register stay.
(Decisions D8, D15, D19, D20.) -/
def Obligations.IndexInstructionsSetI : Prop :=
  ∀ (nnn : Addr) (x : Reg) (s : State),
    (∃ t, exec (.ldI nnn) s = .next t ∧ t.i.toNat = nnn.toNat ∧ completedAt (nextPc s) t ∧
      onlyRegs [] s { t with i := s.i }) ∧
    (∃ t, exec (.addI x) s = .next t ∧ t.i.toNat = (s.i.toNat + (s.getV x).toNat) % 65536 ∧
      completedAt (nextPc s) t ∧ onlyRegs [] s { t with i := s.i }) ∧
    (∃ t, exec (.ldF x) s = .next t ∧ t.i.toNat = 5 * ((s.getV x).toNat % 16) ∧
      completedAt (nextPc s) t ∧ onlyRegs [] s { t with i := s.i })

/-- R123: the three digits, hundreds first, and every other byte of memory unchanged; past the end of memory
OutOfBounds and no byte written.
(Decisions D8, D9, D12, D27; code 4: D11.) -/
def Obligations.BcdStoresThreeDigits : Prop :=
  (∀ (x : Reg) (s : State), s.mem.wf = true → s.i.toNat + 2 ≤ 0xFFF →
    ∃ t, exec (.ldB x) s = .next t ∧
      (Memory.read s.i.toNat t.mem).toNat = (s.getV x).toNat / 100 ∧
      (Memory.read (s.i.toNat + 1) t.mem).toNat = (s.getV x).toNat / 10 % 10 ∧
      (Memory.read (s.i.toNat + 2) t.mem).toNat = (s.getV x).toNat % 10 ∧
      sameMemoryOutside s.i.toNat 3 s t ∧ completedAt (nextPc s) t ∧ sameRegsBut [] s t ∧ t.i = s.i ∧
      sameDisplay s t ∧ sameStack s t ∧ sameTimers s t ∧ sameHidden s t ∧ sameDriver s t) ∧
  (∀ (x : Reg) (s : State), s.i.toNat + 2 > 0xFFF →
    ∃ t, exec (.ldB x) s = .next t ∧ faultTaken 4 (max s.i.toNat 0x1000) s t)

/-- R124: V0 to Vx at I, I + 1, ...; I and every other byte unchanged; past the end of memory OutOfBounds and no byte
written.
(Decisions D8, D9, D12, D16; code 4: D11.) -/
def Obligations.BlockStoreWritesV0ToVx : Prop :=
  (∀ (x : Reg) (s : State), s.mem.wf = true → s.i.toNat + x.toNat ≤ 0xFFF →
    ∃ t, exec (.storeRegs x) s = .next t ∧
      (∀ r : Reg, r.toNat ≤ x.toNat → Memory.read (s.i.toNat + r.toNat) t.mem = s.getV r) ∧
      sameMemoryOutside s.i.toNat (x.toNat + 1) s t ∧ completedAt (nextPc s) t ∧ sameRegsBut [] s t ∧ t.i = s.i ∧
      sameDisplay s t ∧ sameStack s t ∧ sameTimers s t ∧ sameHidden s t ∧ sameDriver s t) ∧
  (∀ (x : Reg) (s : State), s.i.toNat + x.toNat > 0xFFF →
    ∃ t, exec (.storeRegs x) s = .next t ∧ faultTaken 4 (max s.i.toNat 0x1000) s t)

/-- R125: V0 to Vx from I, I + 1, ...; registers above Vx, I and memory unchanged; past the end of memory OutOfBounds
and no register written.
(Decisions D8, D9, D12, D16; code 4: D11.) -/
def Obligations.BlockLoadReadsV0ToVx : Prop :=
  (∀ (x : Reg) (s : State), s.i.toNat + x.toNat ≤ 0xFFF →
    ∃ t, exec (.loadRegs x) s = .next t ∧
      (∀ r : Reg, r.toNat ≤ x.toNat → t.getV r = Memory.read (s.i.toNat + r.toNat) s.mem) ∧
      (∀ r : Reg, x.toNat < r.toNat → t.getV r = s.getV r) ∧ completedAt (nextPc s) t ∧ t.i = s.i ∧
      sameMemory s t ∧ sameDisplay s t ∧ sameStack s t ∧ sameTimers s t ∧ sameHidden s t ∧ sameDriver s t) ∧
  (∀ (x : Reg) (s : State), s.i.toNat + x.toNat > 0xFFF →
    ∃ t, exec (.loadRegs x) s = .next t ∧ faultTaken 4 (max s.i.toNat 0x1000) s t)

/-- A block load with the registers changed in between gives back what a block store wrote (R124, R125).
(That the store leaves I unchanged, so that the load reads the same bytes: decision D16.) -/
def Obligations.BlockLoadUndoesBlockStore : Prop :=
  ∀ (x : Reg) (s t u : State), s.mem.wf = true → s.i.toNat + x.toNat ≤ 0xFFF →
    exec (.storeRegs x) s = .next t → u.mem = t.mem → u.i = t.i →
    ∃ w, exec (.loadRegs x) u = .next w ∧ (∀ r : Reg, r.toNat ≤ x.toNat → w.getV r = s.getV r) ∧
      ∀ r : Reg, x.toNat < r.toNat → w.getV r = u.getV r

/-- R44, R54: two bytes stored by LD [I], Vx are the word fetched there, at once, first byte high.
(R44 and R54 mark this as the spec's own inference.) -/
def Obligations.StoredBytesAreFetchedAtOnce : Prop :=
  ∀ (x : Reg) (k : Nat) (s t : State), s.mem.wf = true → s.i.toNat + x.toNat ≤ 0xFFF → k < x.toNat →
    exec (.storeRegs x) s = .next t →
    ({ t with pc := s.i + BitVec.ofNat 16 k } : State).fetchWord =
      .ok (s.getV (BitVec.ofNat 4 k) ++ s.getV (BitVec.ofNat 4 (k + 1)))

/-! ## Display and keypad -/

/-- R130: CLS turns every pixel off; VF is not written. -/
def Obligations.ClsClearsEveryPixel : Prop :=
  ∀ s : State, ∃ t, exec .cls s = .next t ∧ (∀ r c, Display.pixel t.disp r c = false) ∧
    completedAt (nextPc s) t ∧ sameRegsBut [] s t ∧ t.i = s.i ∧ sameMemory s t ∧ sameStack s t ∧ sameTimers s t ∧
    sameHidden s t ∧ sameDriver s t

/-- R131: DRW inverts exactly the pixels its sprite covers, wrapping at both edges, and sets VF to 1 exactly when one
of them was on; with n = 0 it needs no memory and sets VF to 0; past the end of memory OutOfBounds, no pixel and no VF
written.
(Decisions D8, D9, D12, D25, D26, D36; code 4: D11.) -/
def Obligations.DrwInvertsExactlyTheSpritePixels : Prop :=
  (∀ (x y : Reg) (n : BitVec 4) (s : State), n.toNat = 0 ∨ s.i.toNat + n.toNat - 1 ≤ 0xFFF →
    ∃ t, exec (.drw x y n) s = .next t ∧
      (∀ r c, spriteCovers s x y n.toNat r c → Display.pixel t.disp r c = !Display.pixel s.disp r c) ∧
      (∀ r c, ¬ spriteCovers s x y n.toNat r c → Display.pixel t.disp r c = Display.pixel s.disp r c) ∧
      ((∃ r c, spriteCovers s x y n.toNat r c ∧ Display.pixel s.disp r c = true) → t.getV 0xF = 1) ∧
      ((∀ r c, spriteCovers s x y n.toNat r c → Display.pixel s.disp r c = false) → t.getV 0xF = 0) ∧
      completedAt (nextPc s) t ∧ sameRegsBut [0xF] s t ∧ t.i = s.i ∧ sameMemory s t ∧ sameStack s t ∧
      sameTimers s t ∧ sameHidden s t ∧ sameDriver s t) ∧
  (∀ (x y : Reg) (n : BitVec 4) (s : State), n.toNat > 0 → s.i.toNat + n.toNat - 1 > 0xFFF →
    ∃ t, exec (.drw x y n) s = .next t ∧ faultTaken 4 (max s.i.toNat 0x1000) s t)

/-- Drawing the same sprite twice at the same place restores the display, and the second draw reports a collision
exactly when the first turned some pixel on (R131, S11).
(That I is the same in both draws: decision D16; n = 0: decision D36.) -/
def Obligations.DrawingTwiceRestoresTheDisplay : Prop :=
  ∀ (x y : Reg) (n : BitVec 4) (s t u : State), x ≠ 0xF → y ≠ 0xF →
    n.toNat = 0 ∨ s.i.toNat + n.toNat - 1 ≤ 0xFFF →
    exec (.drw x y n) s = .next t → exec (.drw x y n) t = .next u →
    u.disp = s.disp ∧
    (u.getV 0xF = 1 ↔ ∃ r c, Display.pixel s.disp r c = false ∧ Display.pixel t.disp r c = true)

/-- R132, R133, R135: SKP and SKNP test the level of the key whose index is the low nibble of V[x].
(Decision D21.) -/
def Obligations.KeySkipsTestTheKeyLevel : Prop :=
  ∀ (x : Reg) (s : State),
    (∃ t, exec (.skp x) s = .next t ∧ onlyRegs [] s t ∧
      completedAt (if s.keys.getLsbD ((s.getV x).toNat % 16) then skipPc s else nextPc s) t) ∧
    (∃ t, exec (.sknp x) s = .next t ∧ onlyRegs [] s t ∧
      completedAt (if s.keys.getLsbD ((s.getV x).toNat % 16) then nextPc s else skipPc s) t)

/-- R134: a wait completes, in a Step after its first, on the lowest key that is down now and was up at the last
sample; the first Step of a wait, and a later one with no key newly down, only take the sample: PC stays and the Step
answers WAITING.
(Decisions D22, D23.) -/
def Obligations.WaitForKeyEndsOnTheLowestNewKey : Prop :=
  (∀ (x : Reg) (k : Nat) (s : State), k < 16 → s.waiting = true →
    s.keys.getLsbD k = true → s.keyPrev.getLsbD k = false →
    (∀ j < k, ¬ (s.keys.getLsbD j = true ∧ s.keyPrev.getLsbD j = false)) →
    ∃ t, exec (.ldVxK x) s = .next t ∧ (t.getV x).toNat = k ∧ completedAt (nextPc s) t ∧ onlyRegs [x] s t) ∧
  (∀ (x : Reg) (s : State),
    (s.waiting = true → ∀ k < 16, ¬ (s.keys.getLsbD k = true ∧ s.keyPrev.getLsbD k = false)) →
    ∃ t, exec (.ldVxK x) s = .next t ∧ t.waiting = true ∧ t.keyPrev = s.keys ∧ t.status = .waiting ∧
      t.pc = s.pc ∧ sameRegsBut [] s t ∧ t.i = s.i ∧ sameMemory s t ∧ sameDisplay s t ∧ sameStack s t ∧
      sameTimers s t ∧ t.err = s.err ∧ sameDriver s t)

/-! ## Timers -/

/-- R140 to R142: the transfers between a register and a timer. -/
def Obligations.TimerInstructionsTransfer : Prop :=
  ∀ (x : Reg) (s : State),
    (∃ t, exec (.ldVxDT x) s = .next t ∧ t.getV x = s.dt ∧ completedAt (nextPc s) t ∧ onlyRegs [x] s t) ∧
    (∃ t, exec (.ldDTVx x) s = .next t ∧ t.dt = s.getV x ∧ t.st = s.st ∧ completedAt (nextPc s) t ∧
      onlyRegs [] s { t with dt := s.dt }) ∧
    (∃ t, exec (.ldSTVx x) s = .next t ∧ t.st = s.getV x ∧ t.dt = s.dt ∧ completedAt (nextPc s) t ∧
      onlyRegs [] s { t with st := s.st })

/-! ## Rules of the whole machine -/

/-- R10 and 42 to 45: an instruction changes no V register but its data destinations and, if it is one of the six,
VF.
(That OR, AND and XOR leave VF alone is decision D17, that ADD I does is decision D15.) -/
def Obligations.InstructionsWriteOnlyTheirDestinations : Prop :=
  ∀ (i : Instr) (s t : State) (r : Reg), exec i s = .next t → r ∉ dataDests i →
    (writesFlag i = true → r ≠ 0xF) → t.getV r = s.getV r

/-- R13: only LD I, ADD I and LD F write I.
(That the block instructions, DRW and LD B do not write I is decision D16.) -/
def Obligations.OnlyThreeInstructionsWriteI : Prop :=
  ∀ (i : Instr) (s t : State), exec i s = .next t → t.i ≠ s.i →
    (∃ nnn, i = .ldI nnn) ∨ (∃ x, i = .addI x) ∨ (∃ x, i = .ldF x)

/-- R18: a Step changes a timer only through LD DT, Vx or LD ST, Vx. -/
def Obligations.OnlyTimerInstructionsWriteTimers : Prop :=
  ∀ (i : Instr) (s t : State), exec i s = .next t →
    (t.dt ≠ s.dt → ∃ x, i = .ldDTVx x) ∧ (t.st ≠ s.st → ∃ x, i = .ldSTVx x)

/-- R22, R49, R56: only LD B and LD [I] write memory, and only bytes of their own range. -/
def Obligations.OnlyStoresWriteMemory : Prop :=
  ∀ (i : Instr) (s t : State) (a : Nat), exec i s = .next t → Memory.read a t.mem ≠ Memory.read a s.mem →
    ((∃ x, i = .ldB x) ∨ (∃ x, i = .storeRegs x)) ∧ s.i.toNat ≤ a ∧ a < s.i.toNat + accessLength i ∧ a ≤ 0xFFF

/-- R23: only CLS and DRW change a pixel. -/
def Obligations.OnlyClsAndDrwChangePixels : Prop :=
  ∀ (i : Instr) (s t : State), exec i s = .next t → t.disp ≠ s.disp → i = .cls ∨ ∃ x y n, i = .drw x y n

/-- R17, R56: only CALL and RET change the stack or its depth.
(That the stack is storage of its own: decision D6.) -/
def Obligations.OnlyCallAndRetUseTheStack : Prop :=
  ∀ (i : Instr) (s t : State), exec i s = .next t → (t.sp ≠ s.sp ∨ t.stack ≠ s.stack) →
    i = .ret ∨ ∃ nnn, i = .call nnn

/-- R19: WAITING is set, and KEY_PREV written, by an LD Vx, K that answers WAITING and by nothing else; an OK answer
comes with WAITING cleared; a fault leaves both.
(Decision D22.) -/
def Obligations.WaitingFollowsTheAnswer : Prop :=
  ∀ (i : Instr) (s t : State), exec i s = .next t →
    (t.status = .waiting ∧ (∃ x, i = .ldVxK x) ∧ t.waiting = true ∧ t.keyPrev = s.keys) ∨
    (t.status = .ok ∧ t.waiting = false ∧ t.keyPrev = s.keyPrev) ∨
    (t.status = .fault t.err.code t.err.pc t.err.info ∧ t.waiting = s.waiting ∧ t.keyPrev = s.keyPrev)

/-- R24, R25, R162: an instruction that does not read an input cannot tell what it is.
(The random byte as an input: decision D24; both inputs latched in State are the model's, notes/assumptions/2.md.) -/
def Obligations.InputsReachOnlyTheirReaders : Prop :=
  ∀ (i : Instr) (s t : State), exec i s = .next t →
    (readsKeys i = false → ∀ k, exec i { s with keys := k } = .next { t with keys := k }) ∧
    (readsRnd i = false → ∀ b, exec i { s with rnd := b } = .next { t with rnd := b })

/-- R162: an instruction that uses no timer cannot tell whether a Tick came before it or after it. -/
def Obligations.TickCommutesWithTimerFreeInstructions : Prop :=
  ∀ (i : Instr) (s t : State), usesTimers i = false → exec i s = .next t →
    exec i s.tickEvent = .next t.tickEvent

/-- The dead entries of the stack (index SP and above) are never read (R17): two states that differ only there run
alike, up to dead entries.
(The stack storage and its dead entries: decision D6.) -/
def Obligations.DeadStackEntriesAreNeverRead : Prop :=
  ∀ (i : Instr) (s t : State) (st' : Vector Word 16),
    (∀ (k : Nat) (h : k < 16), k < s.sp.val → st'[k] = s.stack[k]) → exec i s = .next t →
    ∃ u, exec i { s with stack := st' } = .next u ∧ { u with stack := t.stack } = t ∧
      ∀ (k : Nat) (h : k < 16), k < t.sp.val → u.stack[k] = t.stack[k]

/-- Reset and its memory meet the invariant.
(Decision D28; the memory list and the status are the model's, notes/assumptions/4.md and 5.md.) -/
def Obligations.ResetMeetsTheInvariant : Prop := Inv State.reset

/-- Every event of the driver keeps the invariant (R16, R17, R19, R20, R21): memory in canonical form, PC at most
0x10FE, live stack entries former return addresses, ERR clear or naming the instruction PC still points at, WAITING
only at an LD Vx, K.
(Decisions D6, D7, D8, D9, D10, D11, D22; that PC stays below 0x10FF is the spec's own inference; the memory list
and the status are the model's, notes/assumptions/4.md and 5.md.) -/
def Obligations.EveryStepKeepsTheInvariant : Prop :=
  ∀ s t : State, Inv s → step s = .next t → Inv t

/-- The machine always answers the driver: no state stops it.
The faults of the core are next states (R5, R157; notes/assumptions/6.md). -/
def Obligations.EveryEventIsAnswered : Prop := ∀ s : State, ∃ t, step s = .next t
end

