-- ==== Sys2Proof/Laws/Decode.lean ====
section
/-! SUPPORT. The fields of an encoded word, once for each format of spec/30_encoding.md R62; a word is made of its
fields; the fixed bits of a format under the masks of R65. -/

namespace Sys2Proof

/-! ### fields of concatenations, for all widths -/

theorem extract_append_mid {p q r : Nat} (a : BitVec p) (b : BitVec q) (c : BitVec r) :
    (a ++ b ++ c).extractLsb' r q = b := by
  ext k h
  simp [BitVec.getLsbD_append, h]

theorem extract_append_second {p q r t : Nat} (a : BitVec p) (b : BitVec q) (c : BitVec r) (d : BitVec t) :
    (a ++ b ++ c ++ d).extractLsb' (r + t) q = b := by
  ext k h
  simp [BitVec.getLsbD_append, show ¬ r + t + k < t by omega, show ¬ r + t + k - t < r by omega,
    show r + t + k - t - r = k by omega, h]

theorem extract_append_top3 {p q r : Nat} (a : BitVec p) (b : BitVec q) (c : BitVec r) :
    (a ++ b ++ c).extractLsb' (q + r) p = a := by
  ext k h
  simp [BitVec.getLsbD_append, show ¬ q + r + k < r by omega, show ¬ q + r + k - r < q by omega,
    show q + r + k - r - q = k by omega, h]

theorem extract_append_top4 {p q r t : Nat} (a : BitVec p) (b : BitVec q) (c : BitVec r) (d : BitVec t) :
    (a ++ b ++ c ++ d).extractLsb' (q + r + t) p = a := by
  ext k h
  simp [BitVec.getLsbD_append, show ¬ q + r + t + k < t by omega, show ¬ q + r + t + k - t < r by omega,
    show ¬ q + r + t + k - t - r < q by omega, show q + r + t + k - t - r - q = k by omega, h]

theorem append_extract_two {n p q : Nat} (w : BitVec n) (h : n = p + q) :
    w.extractLsb' q p ++ w.extractLsb' 0 q = w.cast h := by
  subst h
  ext k hk
  simp

theorem append_extract_three {n p q r : Nat} (w : BitVec n) (h : n = p + q + r) :
    w.extractLsb' (q + r) p ++ w.extractLsb' r q ++ w.extractLsb' 0 r = w.cast h := by
  subst h
  ext k hk
  simp only [BitVec.getElem_append, BitVec.getElem_extractLsb', BitVec.getElem_cast]
  split
  · simp [BitVec.getLsbD_eq_getElem hk]
  · split
    · rw [show r + (k - r) = k by omega, BitVec.getLsbD_eq_getElem hk]
    · rw [show q + r + (k - r - q) = k by omega, BitVec.getLsbD_eq_getElem hk]

theorem append_extract_four {n p q r t : Nat} (w : BitVec n) (h : n = p + q + r + t) :
    w.extractLsb' (q + r + t) p ++ w.extractLsb' (r + t) q ++ w.extractLsb' t r ++ w.extractLsb' 0 t = w.cast h := by
  subst h
  ext k hk
  simp only [BitVec.getElem_append, BitVec.getElem_extractLsb', BitVec.getElem_cast]
  split
  · simp [BitVec.getLsbD_eq_getElem hk]
  · split
    · rw [show t + (k - t) = k by omega, BitVec.getLsbD_eq_getElem hk]
    · split
      · rw [show r + t + (k - t - r) = k by omega, BitVec.getLsbD_eq_getElem hk]
      · rw [show q + r + t + (k - t - r - q) = k by omega, BitVec.getLsbD_eq_getElem hk]

/-! ### fields of the three formats -/

@[simp] theorem fieldOp_wordNNN (op : BitVec 4) (nnn : Addr) : fieldOp (wordNNN op nnn) = op :=
  BitVec.extractLsb'_append_eq_left ..

@[simp] theorem fieldNNN_wordNNN (op : BitVec 4) (nnn : Addr) : fieldNNN (wordNNN op nnn) = nnn :=
  BitVec.extractLsb'_append_eq_right ..

@[simp] theorem fieldOp_wordXKK (op : BitVec 4) (x : Reg) (kk : Byte) : fieldOp (wordXKK op x kk) = op :=
  extract_append_top3 op x kk

@[simp] theorem fieldX_wordXKK (op : BitVec 4) (x : Reg) (kk : Byte) : fieldX (wordXKK op x kk) = x :=
  extract_append_mid op x kk

@[simp] theorem fieldKK_wordXKK (op : BitVec 4) (x : Reg) (kk : Byte) : fieldKK (wordXKK op x kk) = kk :=
  BitVec.extractLsb'_append_eq_right ..

@[simp] theorem fieldOp_wordXYN (op : BitVec 4) (x y : Reg) (n : BitVec 4) : fieldOp (wordXYN op x y n) = op :=
  extract_append_top4 op x y n

@[simp] theorem fieldX_wordXYN (op : BitVec 4) (x y : Reg) (n : BitVec 4) : fieldX (wordXYN op x y n) = x :=
  extract_append_second op x y n

@[simp] theorem fieldY_wordXYN (op : BitVec 4) (x y : Reg) (n : BitVec 4) : fieldY (wordXYN op x y n) = y :=
  extract_append_mid (op ++ x) y n

@[simp] theorem fieldN_wordXYN (op : BitVec 4) (x y : Reg) (n : BitVec 4) : fieldN (wordXYN op x y n) = n :=
  BitVec.extractLsb'_append_eq_right ..

/-! ### a word is made of its fields -/

theorem wordNNN_fields (w : Word) : wordNNN (fieldOp w) (fieldNNN w) = w :=
  append_extract_two (p := 4) (q := 12) w rfl

theorem wordXKK_fields (w : Word) : wordXKK (fieldOp w) (fieldX w) (fieldKK w) = w :=
  append_extract_three (p := 4) (q := 4) (r := 8) w rfl

theorem wordXYN_fields (w : Word) : wordXYN (fieldOp w) (fieldX w) (fieldY w) (fieldN w) = w :=
  append_extract_four (p := 4) (q := 4) (r := 4) (t := 4) w rfl

theorem bytesWord_wordBytes (w : Word) : bytesWord (w.extractLsb' 8 8) (w.extractLsb' 0 8) = w :=
  append_extract_two (p := 8) (q := 8) w rfl

/-! ### the masks of R65 on the formats -/

theorem and_nibble_ones (a : BitVec 4) : a &&& 0xF#4 = a := BitVec.and_allOnes

theorem and_byte_ones (a : BitVec 8) : a &&& 0xFF#8 = a := BitVec.and_allOnes

theorem wordNNN_and_op (op : BitVec 4) (nnn : Addr) : wordNNN op nnn &&& 0xF000 = wordNNN op 0 := by
  show (op ++ nnn) &&& (0xF#4 ++ 0#12) = op ++ 0#12
  rw [BitVec.and_append]
  simp [and_nibble_ones]

theorem wordXKK_and_op (op : BitVec 4) (x : Reg) (kk : Byte) : wordXKK op x kk &&& 0xF000 = wordXKK op 0 0 := by
  show (op ++ x ++ kk) &&& (0xF#4 ++ 0#4 ++ 0#8) = op ++ 0#4 ++ 0#8
  rw [BitVec.and_append, BitVec.and_append]
  simp [and_nibble_ones]

theorem wordXKK_and_op_kk (op : BitVec 4) (x : Reg) (kk : Byte) :
    wordXKK op x kk &&& 0xF0FF = wordXKK op 0 kk := by
  show (op ++ x ++ kk) &&& (0xF#4 ++ 0#4 ++ 0xFF#8) = op ++ 0#4 ++ kk
  rw [BitVec.and_append, BitVec.and_append]
  simp [and_nibble_ones, and_byte_ones]

theorem wordXYN_and_op (op : BitVec 4) (x y : Reg) (n : BitVec 4) :
    wordXYN op x y n &&& 0xF000 = wordXYN op 0 0 0 := by
  show (op ++ x ++ y ++ n) &&& (0xF#4 ++ 0#4 ++ 0#4 ++ 0#4) = op ++ 0#4 ++ 0#4 ++ 0#4
  rw [BitVec.and_append, BitVec.and_append, BitVec.and_append]
  simp [and_nibble_ones]

theorem wordXYN_and_op_n (op : BitVec 4) (x y : Reg) (n : BitVec 4) :
    wordXYN op x y n &&& 0xF00F = wordXYN op 0 0 n := by
  show (op ++ x ++ y ++ n) &&& (0xF#4 ++ 0#4 ++ 0#4 ++ 0xF#4) = op ++ 0#4 ++ 0#4 ++ n
  rw [BitVec.and_append, BitVec.and_append, BitVec.and_append]
  simp [and_nibble_ones]

end Sys2Proof
end

