-- ==== Sys2Proof/Laws/Display.lean ====
section
/-! SUPPORT. The display: a flip inverts one pixel, and the loops of a sprite invert exactly the pixels of its set
bits (spec/44_display_keypad.md R131). -/

namespace Sys2Proof.Machine

/-- Displays that agree pixel by pixel are equal. -/
theorem Display.ext {d e : Display} (h : ∀ r c, Display.pixel d r c = Display.pixel e r c) : d = e := by
  apply Vector.ext
  intro r hr
  apply Vector.ext
  intro c hc
  exact h ⟨r, hr⟩ ⟨c, hc⟩

@[simp] theorem Display.pixel_dark (r : Fin 32) (c : Fin 64) : Display.pixel Display.dark r c = false := by
  simp [Display.pixel, Display.dark]

/-- A flip inverts its pixel and no other. -/
theorem Display.pixel_flip (d : Display) (r q : Fin 32) (c e : Fin 64) :
    Display.pixel (Display.flip d r c) q e = if q = r ∧ e = c then !Display.pixel d r c else Display.pixel d q e := by
  simp only [Display.pixel, Display.flip, Vector.getElem_set]
  by_cases hr : q = r
  · subst hr
    by_cases hc : e = c
    · subst hc
      simp
    · have : ¬ c.val = e.val := fun h => hc (Fin.ext h.symm)
      simp [hc, this]
  · have : ¬ r.val = q.val := fun h => hr (Fin.ext h.symm)
    simp [hr, this]

/-! ### one row -/

/-- The columns of one row are pairwise distinct: 8 < 64. -/
theorem wrapCol_inj {x j k : Nat} (hj : j < 8) (hk : k < 8) (h : wrapCol (x + j) = wrapCol (x + k)) : j = k := by
  have := congrArg Fin.val h
  simp only [wrapCol, Fin.val_ofNat] at this
  omega

/-- Rows fewer than 32 apart are distinct. -/
theorem wrapRow_ne {y k : Nat} (h0 : 0 < k) (h : k < 32) : wrapRow (y + k) ≠ wrapRow y := by
  intro e
  have := congrArg Fin.val e
  simp only [wrapRow, Fin.val_ofNat] at this
  omega

/-- The first `m` columns of a sprite row have pixel `c`. -/
def rowPlots (x0 : Nat) (b : Byte) (m : Nat) (c : Fin 64) : Prop :=
  ∃ col < m, spriteBit b col = true ∧ wrapCol (x0 + col) = c

theorem rowPlots_succ {x0 : Nat} {b : Byte} {m : Nat} {c : Fin 64} :
    rowPlots x0 b (m + 1) c ↔ rowPlots x0 b m c ∨ (spriteBit b m = true ∧ wrapCol (x0 + m) = c) := by
  constructor
  · rintro ⟨col, h, hb, hc⟩
    rcases Nat.lt_succ_iff_lt_or_eq.1 h with h | rfl
    · exact .inl ⟨col, h, hb, hc⟩
    · exact .inr ⟨hb, hc⟩
  · rintro (⟨col, h, hb, hc⟩ | ⟨hb, hc⟩)
    · exact ⟨col, by omega, hb, hc⟩
    · exact ⟨m, by omega, hb, hc⟩

/-- The inner loop up to column `m`. -/
def plotCols (x0 : Nat) (r : Fin 32) (b : Byte) (m : Nat) (acc : Display × Bool) : Display × Bool :=
  (List.range m).foldl (fun acc col => if spriteBit b col then plotPixel r (wrapCol (x0 + col)) acc else acc) acc

theorem plotCols_succ (x0 : Nat) (r : Fin 32) (b : Byte) (m : Nat) (acc : Display × Bool) :
    plotCols x0 r b (m + 1) acc =
      if spriteBit b m then plotPixel r (wrapCol (x0 + m)) (plotCols x0 r b m acc) else plotCols x0 r b m acc := by
  simp [plotCols, List.range_succ, List.foldl_append]

theorem plotCols_pixel (x0 : Nat) (r : Fin 32) (b : Byte) (m : Nat) (hm : m ≤ 8) (acc : Display × Bool)
    (q : Fin 32) (c : Fin 64) :
    ((q = r ∧ rowPlots x0 b m c) →
      Display.pixel (plotCols x0 r b m acc).1 q c = !Display.pixel acc.1 q c) ∧
    (¬ (q = r ∧ rowPlots x0 b m c) →
      Display.pixel (plotCols x0 r b m acc).1 q c = Display.pixel acc.1 q c) := by
  induction m with
  | zero => exact ⟨fun ⟨_, _, h, _⟩ => absurd h (Nat.not_lt_zero _), fun _ => rfl⟩
  | succ m ih =>
    have ih := ih (by omega)
    rw [plotCols_succ, rowPlots_succ]
    by_cases hb : spriteBit b m = true
    · simp only [hb, if_true, plotPixel, Display.pixel_flip, true_and]
      by_cases hq : q = r ∧ c = wrapCol (x0 + m)
      · obtain ⟨rfl, rfl⟩ := hq
        have hnot : ¬ rowPlots x0 b m (wrapCol (x0 + m)) := by
          rintro ⟨col, h, _, hc⟩
          exact absurd (wrapCol_inj (by omega) (by omega) hc) (by omega)
        have := ih.2 (fun h => hnot h.2)
        simp [this]
      · rw [if_neg hq]
        constructor
        · rintro ⟨rfl, h | h⟩
          · exact ih.1 ⟨rfl, h⟩
          · exact absurd ⟨rfl, h.symm⟩ hq
        · intro h
          exact ih.2 (fun hh => h ⟨hh.1, .inl hh.2⟩)
    · simp only [hb, false_and, or_false, Bool.false_eq_true, if_false]
      exact ih

theorem plotCols_flag (x0 : Nat) (r : Fin 32) (b : Byte) (m : Nat) (hm : m ≤ 8) (acc : Display × Bool) :
    (plotCols x0 r b m acc).2 = true ↔
      acc.2 = true ∨ ∃ c, rowPlots x0 b m c ∧ Display.pixel acc.1 r c = true := by
  induction m with
  | zero =>
    simp [plotCols, rowPlots]
  | succ m ih =>
    have ih := ih (by omega)
    rw [plotCols_succ]
    simp only [rowPlots_succ]
    by_cases hb : spriteBit b m = true
    · have hnot : ¬ (r = r ∧ rowPlots x0 b m (wrapCol (x0 + m))) := by
        rintro ⟨_, col, h, _, hc⟩
        exact absurd (wrapCol_inj (by omega) (by omega) hc) (by omega)
      have hp := (plotCols_pixel x0 r b m (by omega) acc r (wrapCol (x0 + m))).2 hnot
      simp only [hb, if_true, plotPixel, Bool.or_eq_true, ih, hp, true_and]
      constructor
      · rintro ((h | ⟨c, h, h'⟩) | h)
        · exact .inl h
        · exact .inr ⟨c, .inl h, h'⟩
        · exact .inr ⟨_, .inr rfl, h⟩
      · rintro (h | ⟨c, h | rfl, h'⟩)
        · exact .inl (.inl h)
        · exact .inl (.inr ⟨c, h, h'⟩)
        · exact .inr h'
    · simp only [hb, false_and, or_false, Bool.false_eq_true, if_false]
      exact ih

theorem plotRow_eq (x0 : Nat) (r : Fin 32) (b : Byte) (acc : Display × Bool) :
    plotRow x0 r b acc = plotCols x0 r b 8 acc := rfl

/-! ### all rows -/

/-- The sprite `bs` at column `x0` and row `y` has pixel (r, c). -/
def spritePlots (x0 y : Nat) (bs : List Byte) (r : Fin 32) (c : Fin 64) : Prop :=
  ∃ (k : Nat) (h : k < bs.length), wrapRow (y + k) = r ∧ rowPlots x0 bs[k] 8 c

theorem spritePlots_cons {x0 y : Nat} {b : Byte} {bs : List Byte} {r : Fin 32} {c : Fin 64} :
    spritePlots x0 y (b :: bs) r c ↔
      (wrapRow y = r ∧ rowPlots x0 b 8 c) ∨ spritePlots x0 (y + 1) bs r c := by
  constructor
  · rintro ⟨k, h, hr, hc⟩
    cases k with
    | zero => exact .inl ⟨hr, hc⟩
    | succ k => exact .inr ⟨k, by simpa using h, by rw [← hr]; congr 1; omega, hc⟩
  · rintro (⟨hr, hc⟩ | ⟨k, h, hr, hc⟩)
    · exact ⟨0, by simp, hr, hc⟩
    · exact ⟨k + 1, by simpa using h, by rw [← hr]; congr 1; omega, hc⟩

/-- No later row of a sprite of fewer than 32 rows touches its first one. -/
theorem spritePlots_row_ne {x0 y : Nat} {bs : List Byte} {c : Fin 64} (hl : bs.length < 32) :
    ¬ spritePlots x0 (y + 1) bs (wrapRow y) c := by
  rintro ⟨k, h, hr, _⟩
  exact wrapRow_ne (y := y) (k := k + 1) (by omega) (by omega) (by rw [← hr]; congr 1; omega)

/-- What the two loops do to a pixel: inverted if the sprite has it, else unchanged. -/
theorem plotRows_pixel (x0 y : Nat) (bs : List Byte) (hl : bs.length ≤ 32) (acc : Display × Bool)
    (r : Fin 32) (c : Fin 64) :
    (spritePlots x0 y bs r c → Display.pixel (plotRows x0 y bs acc).1 r c = !Display.pixel acc.1 r c) ∧
    (¬ spritePlots x0 y bs r c → Display.pixel (plotRows x0 y bs acc).1 r c = Display.pixel acc.1 r c) := by
  induction bs generalizing y acc with
  | nil => exact ⟨fun ⟨_, h, _⟩ => absurd h (Nat.not_lt_zero _), fun _ => rfl⟩
  | cons b bs ih =>
    simp only [List.length_cons] at hl
    have ih := ih (y + 1) (by omega) (plotRow x0 (wrapRow y) b acc)
    have hrow := plotCols_pixel x0 (wrapRow y) b 8 (Nat.le_refl 8) acc r c
    rw [← plotRow_eq] at hrow
    simp only [plotRows, spritePlots_cons]
    by_cases hfirst : wrapRow y = r ∧ rowPlots x0 b 8 c
    · have hlater : ¬ spritePlots x0 (y + 1) bs r c := hfirst.1 ▸ spritePlots_row_ne (by omega)
      rw [ih.2 hlater, hrow.1 ⟨hfirst.1.symm, hfirst.2⟩]
      exact ⟨fun _ => rfl, fun h => absurd (.inl hfirst) h⟩
    · have hsame := hrow.2 (fun h => hfirst ⟨h.1.symm, h.2⟩)
      rw [hsame] at ih
      exact ⟨fun h => ih.1 (h.resolve_left hfirst), fun h => ih.2 (fun hh => h (.inr hh))⟩

/-- What the two loops say of a collision: one exactly when the sprite has a pixel that was on. -/
theorem plotRows_flag (x0 y : Nat) (bs : List Byte) (hl : bs.length ≤ 32) (acc : Display × Bool) :
    (plotRows x0 y bs acc).2 = true ↔
      acc.2 = true ∨ ∃ r c, spritePlots x0 y bs r c ∧ Display.pixel acc.1 r c = true := by
  induction bs generalizing y acc with
  | nil => simp [plotRows, spritePlots]
  | cons b bs ih =>
    simp only [List.length_cons] at hl
    have ih := ih (y + 1) (by omega) (plotRow x0 (wrapRow y) b acc)
    have hflag := plotCols_flag x0 (wrapRow y) b 8 (Nat.le_refl 8) acc
    rw [← plotRow_eq] at hflag
    have hkeep : ∀ r c, spritePlots x0 (y + 1) bs r c →
        Display.pixel (plotRow x0 (wrapRow y) b acc).1 r c = Display.pixel acc.1 r c := by
      intro r c h
      refine (plotCols_pixel x0 (wrapRow y) b 8 (Nat.le_refl 8) acc r c).2 fun hh => ?_
      exact spritePlots_row_ne (by omega) (hh.1 ▸ h)
    simp only [plotRows, ih, hflag, spritePlots_cons]
    constructor
    · rintro ((h | ⟨c, h, hp⟩) | ⟨r, c, h, hp⟩)
      · exact .inl h
      · exact .inr ⟨_, c, .inl ⟨rfl, h⟩, hp⟩
      · exact .inr ⟨r, c, .inr h, hkeep r c h ▸ hp⟩
    · rintro (h | ⟨r, c, ⟨rfl, h⟩ | h, hp⟩)
      · exact .inl (.inl h)
      · exact .inl (.inr ⟨c, h, hp⟩)
      · exact .inr ⟨r, c, h, (hkeep r c h).symm ▸ hp⟩

end Sys2Proof.Machine
end

