-- ==== Sys2Proof/Laws/Memory.lean ====
section
/-! SUPPORT. The laws of memory: reading after writing, and that every memory operation keeps the canonical form. -/

namespace Sys2Proof.Machine

/-! ### the canonical form -/

@[simp] theorem Memory.wfFrom_nil (lo : Nat) : Memory.wfFrom lo [] = true := rfl

theorem Memory.wfFrom_cons {lo a : Nat} {b : Byte} {m : Memory} :
    Memory.wfFrom lo ((a, b) :: m) = true ↔
      lo ≤ a ∧ a < Config.memSize ∧ b ≠ Config.unlistedByte ∧ Memory.wfFrom (a + 1) m = true := by
  simp [Memory.wfFrom, and_assoc]

theorem Memory.wfFrom_mono {lo hi : Nat} (h : lo ≤ hi) {m : Memory} (hm : Memory.wfFrom hi m = true) :
    Memory.wfFrom lo m = true := by
  cases m with
  | nil => rfl
  | cons c m =>
    obtain ⟨a, b⟩ := c
    rw [Memory.wfFrom_cons] at hm ⊢
    exact ⟨by omega, hm.2⟩

/-- The memory of State.reset has the form. -/
theorem Memory.wf_nil : Memory.wf [] = true := rfl

/-- Below its first possible address a memory reads as unlisted. -/
theorem Memory.read_below {m : Memory} {lo a : Nat} (hm : Memory.wfFrom lo m = true) (h : a < lo) :
    Memory.read a m = Config.unlistedByte := by
  induction m generalizing lo with
  | nil => rfl
  | cons c m ih =>
    obtain ⟨c, d⟩ := c
    rw [Memory.wfFrom_cons] at hm
    have : a ≠ c := by omega
    simp only [Memory.read, if_neg this]
    exact ih hm.2.2.2 (by omega)

/-- Outside the address space nothing is listed. -/
theorem Memory.read_above {m : Memory} {lo a : Nat} (hm : Memory.wfFrom lo m = true) (h : Config.memSize ≤ a) :
    Memory.read a m = Config.unlistedByte := by
  induction m generalizing lo with
  | nil => rfl
  | cons c m ih =>
    obtain ⟨c, d⟩ := c
    rw [Memory.wfFrom_cons] at hm
    have : a ≠ c := by omega
    simp only [Memory.read, if_neg this]
    exact ih hm.2.2.2

/-! ### write -/

theorem Memory.wfFrom_write {m : Memory} {lo a : Nat} (b : Byte) (hm : Memory.wfFrom lo m = true) (hlo : lo ≤ a)
    (ha : a < Config.memSize) : Memory.wfFrom lo (Memory.write a b m) = true := by
  induction m generalizing lo with
  | nil =>
    simp only [Memory.write]
    split
    · rfl
    · rename_i hb
      exact Memory.wfFrom_cons.2 ⟨hlo, ha, hb, rfl⟩
  | cons c m ih =>
    obtain ⟨c, d⟩ := c
    have hm' := Memory.wfFrom_cons.1 hm
    simp only [Memory.write]
    split
    · split
      · exact hm
      · rename_i hac hb
        exact Memory.wfFrom_cons.2 ⟨hlo, ha, hb, Memory.wfFrom_cons.2 ⟨by omega, hm'.2⟩⟩
    · split
      · rename_i hac
        subst hac
        split
        · exact Memory.wfFrom_mono (by omega) hm'.2.2.2
        · rename_i hb
          exact Memory.wfFrom_cons.2 ⟨hlo, ha, hb, hm'.2.2.2⟩
      · exact Memory.wfFrom_cons.2 ⟨hm'.1, hm'.2.1, hm'.2.2.1, ih hm'.2.2.2 (by omega)⟩

/-- A write inside the address space keeps the canonical form. -/
theorem Memory.wf_write {m : Memory} {a : Nat} (b : Byte) (hm : m.wf = true) (ha : a < Config.memSize) :
    (Memory.write a b m).wf = true := Memory.wfFrom_write b hm (Nat.zero_le a) ha

theorem Memory.read_write_from {m : Memory} {lo a : Nat} (b : Byte) (hm : Memory.wfFrom lo m = true) (hlo : lo ≤ a) :
    Memory.read a (Memory.write a b m) = b := by
  induction m generalizing lo with
  | nil =>
    simp only [Memory.write]
    split <;> simp_all [Memory.read]
  | cons c m ih =>
    obtain ⟨c, d⟩ := c
    have hm' := Memory.wfFrom_cons.1 hm
    simp only [Memory.write]
    split
    · rename_i hac
      split
      · rename_i hb
        rw [hb]
        exact Memory.read_below (lo := c) (Memory.wfFrom_cons.2 ⟨Nat.le_refl c, hm'.2⟩) hac
      · simp [Memory.read]
    · split
      · rename_i hac
        subst hac
        split
        · rename_i hb
          rw [hb]
          exact Memory.read_below hm'.2.2.2 (by omega)
        · simp [Memory.read]
      · rename_i hac
        simp only [Memory.read, if_neg hac]
        exact ih hm'.2.2.2 (by omega)

/-- A read after a write to the same address gives the value written. -/
theorem Memory.read_write_same {m : Memory} {a : Nat} (b : Byte) (hm : m.wf = true) :
    Memory.read a (Memory.write a b m) = b := Memory.read_write_from b hm (Nat.zero_le a)

/-- A write leaves every other address alone. -/
theorem Memory.read_write_ne {m : Memory} {a c : Nat} (b : Byte) (h : c ≠ a) :
    Memory.read c (Memory.write a b m) = Memory.read c m := by
  induction m with
  | nil =>
    simp only [Memory.write]
    split <;> simp [Memory.read, h]
  | cons e m ih =>
    obtain ⟨e, d⟩ := e
    simp only [Memory.write]
    split
    · split <;> simp [Memory.read, h]
    · split
      · rename_i he
        subst he
        split <;> simp [Memory.read, h]
      · simp only [Memory.read, ih]

/-! ### writeBytes and readBytes -/

/-- Bytes written inside the address space keep the canonical form. -/
theorem Memory.wf_writeBytes {bs : List Byte} {m : Memory} {a : Nat} (hm : m.wf = true)
    (h : a + bs.length ≤ Config.memSize) : (Memory.writeBytes a bs m).wf = true := by
  induction bs generalizing a m with
  | nil => exact hm
  | cons b bs ih =>
    simp only [List.length_cons] at h
    exact ih (Memory.wf_write b hm (by omega)) (by omega)

/-- Bytes written leave every address outside their range alone. -/
theorem Memory.read_writeBytes_outside {bs : List Byte} {m : Memory} {a c : Nat} (h : c < a ∨ a + bs.length ≤ c) :
    Memory.read c (Memory.writeBytes a bs m) = Memory.read c m := by
  induction bs generalizing a m with
  | nil => rfl
  | cons b bs ih =>
    simp only [List.length_cons] at h
    simp only [Memory.writeBytes]
    rw [ih (by omega), Memory.read_write_ne b (by omega)]

/-- Bytes written are read back in order. -/
theorem Memory.read_writeBytes {bs : List Byte} {m : Memory} {a k : Nat} (hm : m.wf = true)
    (h : a + bs.length ≤ Config.memSize) (hk : k < bs.length) :
    Memory.read (a + k) (Memory.writeBytes a bs m) = bs[k] := by
  induction bs generalizing a m k with
  | nil => simp at hk
  | cons b bs ih =>
    simp only [List.length_cons] at h hk
    have hw := Memory.wf_write b hm (a := a) (by omega)
    cases k with
    | zero =>
      simp only [Memory.writeBytes, Nat.add_zero, List.getElem_cons_zero]
      rw [Memory.read_writeBytes_outside (by omega), Memory.read_write_same b hm]
    | succ k =>
      have := ih (a := a + 1) (k := k) hw (by omega) (by omega)
      simpa [Memory.writeBytes, Nat.add_assoc, Nat.add_comm 1 k] using this

@[simp] theorem Memory.readBytes_length (a n : Nat) (m : Memory) : (Memory.readBytes a n m).length = n := by
  simp [Memory.readBytes]

@[simp] theorem Memory.readBytes_getElem (a n k : Nat) (m : Memory) (h : k < (Memory.readBytes a n m).length) :
    (Memory.readBytes a n m)[k] = Memory.read (a + k) m := by
  simp [Memory.readBytes]

/-! ### equal memories -/

theorem Memory.eq_of_read_from {m m' : Memory} {lo : Nat} (hm : Memory.wfFrom lo m = true)
    (hm' : Memory.wfFrom lo m' = true) (h : ∀ a, lo ≤ a → Memory.read a m = Memory.read a m') : m = m' := by
  induction m generalizing lo m' with
  | nil =>
    cases m' with
    | nil => rfl
    | cons c m' =>
      obtain ⟨a, b⟩ := c
      have hc := Memory.wfFrom_cons.1 hm'
      have := h a hc.1
      simp only [Memory.read, if_true] at this
      exact absurd this.symm hc.2.2.1
  | cons c m ih =>
    obtain ⟨a, b⟩ := c
    have hc := Memory.wfFrom_cons.1 hm
    cases m' with
    | nil =>
      have := h a hc.1
      simp only [Memory.read, if_true] at this
      exact absurd this hc.2.2.1
    | cons c' m' =>
      obtain ⟨a', b'⟩ := c'
      have hc' := Memory.wfFrom_cons.1 hm'
      have haa : a = a' := by
        rcases Nat.lt_trichotomy a a' with hlt | heq | hgt
        · have := h a hc.1
          simp only [Memory.read, if_true, if_neg (Nat.ne_of_lt hlt)] at this
          rw [Memory.read_below hc'.2.2.2 (by omega)] at this
          exact absurd this hc.2.2.1
        · exact heq
        · have := h a' hc'.1
          simp only [Memory.read, if_true, if_neg (Nat.ne_of_lt hgt)] at this
          rw [Memory.read_below hc.2.2.2 (by omega)] at this
          exact absurd this.symm hc'.2.2.1
      subst haa
      have hbb : b = b' := by
        have := h a hc.1
        simpa [Memory.read] using this
      subst hbb
      have : m = m' := by
        refine ih hc.2.2.2 hc'.2.2.2 fun x hx => ?_
        have := h x (by omega)
        simpa [Memory.read, show x ≠ a by omega] using this
      rw [this]

/-- Two memories in canonical form that read alike are equal. -/
theorem Memory.eq_of_read {m m' : Memory} (hm : m.wf = true) (hm' : m'.wf = true)
    (h : ∀ a, Memory.read a m = Memory.read a m') : m = m' := Memory.eq_of_read_from hm hm' fun a _ => h a

end Sys2Proof.Machine
end

