-- ==== Sys2Proof/Laws/State.lean ====
section
/-! SUPPORT. One lemma per field per update of State, true by rfl, so that no later proof unfolds a record update. -/

namespace Sys2Proof.Machine

variable (s : State)

/-! ### setV -/

@[simp] theorem State.setV_v (r : Reg) (b : Byte) : (s.setV r b).v = s.v.set r.toNat b r.isLt := rfl
@[simp] theorem State.setV_i (r : Reg) (b : Byte) : (s.setV r b).i = s.i := rfl
@[simp] theorem State.setV_pc (r : Reg) (b : Byte) : (s.setV r b).pc = s.pc := rfl
@[simp] theorem State.setV_stack (r : Reg) (b : Byte) : (s.setV r b).stack = s.stack := rfl
@[simp] theorem State.setV_sp (r : Reg) (b : Byte) : (s.setV r b).sp = s.sp := rfl
@[simp] theorem State.setV_dt (r : Reg) (b : Byte) : (s.setV r b).dt = s.dt := rfl
@[simp] theorem State.setV_st (r : Reg) (b : Byte) : (s.setV r b).st = s.st := rfl
@[simp] theorem State.setV_waiting (r : Reg) (b : Byte) : (s.setV r b).waiting = s.waiting := rfl
@[simp] theorem State.setV_keyPrev (r : Reg) (b : Byte) : (s.setV r b).keyPrev = s.keyPrev := rfl
@[simp] theorem State.setV_err (r : Reg) (b : Byte) : (s.setV r b).err = s.err := rfl
@[simp] theorem State.setV_mem (r : Reg) (b : Byte) : (s.setV r b).mem = s.mem := rfl
@[simp] theorem State.setV_disp (r : Reg) (b : Byte) : (s.setV r b).disp = s.disp := rfl
@[simp] theorem State.setV_status (r : Reg) (b : Byte) : (s.setV r b).status = s.status := rfl
@[simp] theorem State.setV_keys (r : Reg) (b : Byte) : (s.setV r b).keys = s.keys := rfl
@[simp] theorem State.setV_rnd (r : Reg) (b : Byte) : (s.setV r b).rnd = s.rnd := rfl
@[simp] theorem State.setV_events (r : Reg) (b : Byte) : (s.setV r b).events = s.events := rfl
@[simp] theorem State.setV_draws (r : Reg) (b : Byte) : (s.setV r b).draws = s.draws := rfl

/-! ### setI -/

@[simp] theorem State.setI_v (w : Word) : (s.setI w).v = s.v := rfl
@[simp] theorem State.setI_i (w : Word) : (s.setI w).i = w := rfl
@[simp] theorem State.setI_pc (w : Word) : (s.setI w).pc = s.pc := rfl
@[simp] theorem State.setI_stack (w : Word) : (s.setI w).stack = s.stack := rfl
@[simp] theorem State.setI_sp (w : Word) : (s.setI w).sp = s.sp := rfl
@[simp] theorem State.setI_dt (w : Word) : (s.setI w).dt = s.dt := rfl
@[simp] theorem State.setI_st (w : Word) : (s.setI w).st = s.st := rfl
@[simp] theorem State.setI_waiting (w : Word) : (s.setI w).waiting = s.waiting := rfl
@[simp] theorem State.setI_keyPrev (w : Word) : (s.setI w).keyPrev = s.keyPrev := rfl
@[simp] theorem State.setI_err (w : Word) : (s.setI w).err = s.err := rfl
@[simp] theorem State.setI_mem (w : Word) : (s.setI w).mem = s.mem := rfl
@[simp] theorem State.setI_disp (w : Word) : (s.setI w).disp = s.disp := rfl
@[simp] theorem State.setI_status (w : Word) : (s.setI w).status = s.status := rfl
@[simp] theorem State.setI_keys (w : Word) : (s.setI w).keys = s.keys := rfl
@[simp] theorem State.setI_rnd (w : Word) : (s.setI w).rnd = s.rnd := rfl
@[simp] theorem State.setI_events (w : Word) : (s.setI w).events = s.events := rfl
@[simp] theorem State.setI_draws (w : Word) : (s.setI w).draws = s.draws := rfl
@[simp] theorem State.setI_getV (w : Word) (q : Reg) : (s.setI w).getV q = s.getV q := rfl

/-! ### setDT -/

@[simp] theorem State.setDT_v (b : Byte) : (s.setDT b).v = s.v := rfl
@[simp] theorem State.setDT_i (b : Byte) : (s.setDT b).i = s.i := rfl
@[simp] theorem State.setDT_pc (b : Byte) : (s.setDT b).pc = s.pc := rfl
@[simp] theorem State.setDT_stack (b : Byte) : (s.setDT b).stack = s.stack := rfl
@[simp] theorem State.setDT_sp (b : Byte) : (s.setDT b).sp = s.sp := rfl
@[simp] theorem State.setDT_dt (b : Byte) : (s.setDT b).dt = b := rfl
@[simp] theorem State.setDT_st (b : Byte) : (s.setDT b).st = s.st := rfl
@[simp] theorem State.setDT_waiting (b : Byte) : (s.setDT b).waiting = s.waiting := rfl
@[simp] theorem State.setDT_keyPrev (b : Byte) : (s.setDT b).keyPrev = s.keyPrev := rfl
@[simp] theorem State.setDT_err (b : Byte) : (s.setDT b).err = s.err := rfl
@[simp] theorem State.setDT_mem (b : Byte) : (s.setDT b).mem = s.mem := rfl
@[simp] theorem State.setDT_disp (b : Byte) : (s.setDT b).disp = s.disp := rfl
@[simp] theorem State.setDT_status (b : Byte) : (s.setDT b).status = s.status := rfl
@[simp] theorem State.setDT_keys (b : Byte) : (s.setDT b).keys = s.keys := rfl
@[simp] theorem State.setDT_rnd (b : Byte) : (s.setDT b).rnd = s.rnd := rfl
@[simp] theorem State.setDT_events (b : Byte) : (s.setDT b).events = s.events := rfl
@[simp] theorem State.setDT_draws (b : Byte) : (s.setDT b).draws = s.draws := rfl
@[simp] theorem State.setDT_getV (b : Byte) (q : Reg) : (s.setDT b).getV q = s.getV q := rfl

/-! ### setST -/

@[simp] theorem State.setST_v (b : Byte) : (s.setST b).v = s.v := rfl
@[simp] theorem State.setST_i (b : Byte) : (s.setST b).i = s.i := rfl
@[simp] theorem State.setST_pc (b : Byte) : (s.setST b).pc = s.pc := rfl
@[simp] theorem State.setST_stack (b : Byte) : (s.setST b).stack = s.stack := rfl
@[simp] theorem State.setST_sp (b : Byte) : (s.setST b).sp = s.sp := rfl
@[simp] theorem State.setST_dt (b : Byte) : (s.setST b).dt = s.dt := rfl
@[simp] theorem State.setST_st (b : Byte) : (s.setST b).st = b := rfl
@[simp] theorem State.setST_waiting (b : Byte) : (s.setST b).waiting = s.waiting := rfl
@[simp] theorem State.setST_keyPrev (b : Byte) : (s.setST b).keyPrev = s.keyPrev := rfl
@[simp] theorem State.setST_err (b : Byte) : (s.setST b).err = s.err := rfl
@[simp] theorem State.setST_mem (b : Byte) : (s.setST b).mem = s.mem := rfl
@[simp] theorem State.setST_disp (b : Byte) : (s.setST b).disp = s.disp := rfl
@[simp] theorem State.setST_status (b : Byte) : (s.setST b).status = s.status := rfl
@[simp] theorem State.setST_keys (b : Byte) : (s.setST b).keys = s.keys := rfl
@[simp] theorem State.setST_rnd (b : Byte) : (s.setST b).rnd = s.rnd := rfl
@[simp] theorem State.setST_events (b : Byte) : (s.setST b).events = s.events := rfl
@[simp] theorem State.setST_draws (b : Byte) : (s.setST b).draws = s.draws := rfl
@[simp] theorem State.setST_getV (b : Byte) (q : Reg) : (s.setST b).getV q = s.getV q := rfl

/-! ### setMem -/

@[simp] theorem State.setMem_v (m : Memory) : (s.setMem m).v = s.v := rfl
@[simp] theorem State.setMem_i (m : Memory) : (s.setMem m).i = s.i := rfl
@[simp] theorem State.setMem_pc (m : Memory) : (s.setMem m).pc = s.pc := rfl
@[simp] theorem State.setMem_stack (m : Memory) : (s.setMem m).stack = s.stack := rfl
@[simp] theorem State.setMem_sp (m : Memory) : (s.setMem m).sp = s.sp := rfl
@[simp] theorem State.setMem_dt (m : Memory) : (s.setMem m).dt = s.dt := rfl
@[simp] theorem State.setMem_st (m : Memory) : (s.setMem m).st = s.st := rfl
@[simp] theorem State.setMem_waiting (m : Memory) : (s.setMem m).waiting = s.waiting := rfl
@[simp] theorem State.setMem_keyPrev (m : Memory) : (s.setMem m).keyPrev = s.keyPrev := rfl
@[simp] theorem State.setMem_err (m : Memory) : (s.setMem m).err = s.err := rfl
@[simp] theorem State.setMem_mem (m : Memory) : (s.setMem m).mem = m := rfl
@[simp] theorem State.setMem_disp (m : Memory) : (s.setMem m).disp = s.disp := rfl
@[simp] theorem State.setMem_status (m : Memory) : (s.setMem m).status = s.status := rfl
@[simp] theorem State.setMem_keys (m : Memory) : (s.setMem m).keys = s.keys := rfl
@[simp] theorem State.setMem_rnd (m : Memory) : (s.setMem m).rnd = s.rnd := rfl
@[simp] theorem State.setMem_events (m : Memory) : (s.setMem m).events = s.events := rfl
@[simp] theorem State.setMem_draws (m : Memory) : (s.setMem m).draws = s.draws := rfl
@[simp] theorem State.setMem_getV (m : Memory) (q : Reg) : (s.setMem m).getV q = s.getV q := rfl

/-! ### setDisp -/

@[simp] theorem State.setDisp_v (d : Display) : (s.setDisp d).v = s.v := rfl
@[simp] theorem State.setDisp_i (d : Display) : (s.setDisp d).i = s.i := rfl
@[simp] theorem State.setDisp_pc (d : Display) : (s.setDisp d).pc = s.pc := rfl
@[simp] theorem State.setDisp_stack (d : Display) : (s.setDisp d).stack = s.stack := rfl
@[simp] theorem State.setDisp_sp (d : Display) : (s.setDisp d).sp = s.sp := rfl
@[simp] theorem State.setDisp_dt (d : Display) : (s.setDisp d).dt = s.dt := rfl
@[simp] theorem State.setDisp_st (d : Display) : (s.setDisp d).st = s.st := rfl
@[simp] theorem State.setDisp_waiting (d : Display) : (s.setDisp d).waiting = s.waiting := rfl
@[simp] theorem State.setDisp_keyPrev (d : Display) : (s.setDisp d).keyPrev = s.keyPrev := rfl
@[simp] theorem State.setDisp_err (d : Display) : (s.setDisp d).err = s.err := rfl
@[simp] theorem State.setDisp_mem (d : Display) : (s.setDisp d).mem = s.mem := rfl
@[simp] theorem State.setDisp_disp (d : Display) : (s.setDisp d).disp = d := rfl
@[simp] theorem State.setDisp_status (d : Display) : (s.setDisp d).status = s.status := rfl
@[simp] theorem State.setDisp_keys (d : Display) : (s.setDisp d).keys = s.keys := rfl
@[simp] theorem State.setDisp_rnd (d : Display) : (s.setDisp d).rnd = s.rnd := rfl
@[simp] theorem State.setDisp_events (d : Display) : (s.setDisp d).events = s.events := rfl
@[simp] theorem State.setDisp_draws (d : Display) : (s.setDisp d).draws = s.draws := rfl
@[simp] theorem State.setDisp_getV (d : Display) (q : Reg) : (s.setDisp d).getV q = s.getV q := rfl

/-! ### retire -/

@[simp] theorem State.retire_v (p : Word) : (s.retire p).v = s.v := rfl
@[simp] theorem State.retire_i (p : Word) : (s.retire p).i = s.i := rfl
@[simp] theorem State.retire_pc (p : Word) : (s.retire p).pc = p := rfl
@[simp] theorem State.retire_stack (p : Word) : (s.retire p).stack = s.stack := rfl
@[simp] theorem State.retire_sp (p : Word) : (s.retire p).sp = s.sp := rfl
@[simp] theorem State.retire_dt (p : Word) : (s.retire p).dt = s.dt := rfl
@[simp] theorem State.retire_st (p : Word) : (s.retire p).st = s.st := rfl
@[simp] theorem State.retire_waiting (p : Word) : (s.retire p).waiting = false := rfl
@[simp] theorem State.retire_keyPrev (p : Word) : (s.retire p).keyPrev = s.keyPrev := rfl
@[simp] theorem State.retire_err (p : Word) : (s.retire p).err = s.err := rfl
@[simp] theorem State.retire_mem (p : Word) : (s.retire p).mem = s.mem := rfl
@[simp] theorem State.retire_disp (p : Word) : (s.retire p).disp = s.disp := rfl
@[simp] theorem State.retire_status (p : Word) : (s.retire p).status = .ok := rfl
@[simp] theorem State.retire_keys (p : Word) : (s.retire p).keys = s.keys := rfl
@[simp] theorem State.retire_rnd (p : Word) : (s.retire p).rnd = s.rnd := rfl
@[simp] theorem State.retire_events (p : Word) : (s.retire p).events = s.events := rfl
@[simp] theorem State.retire_draws (p : Word) : (s.retire p).draws = s.draws := rfl
@[simp] theorem State.retire_getV (p : Word) (q : Reg) : (s.retire p).getV q = s.getV q := rfl

/-! ### keepWaiting -/

@[simp] theorem State.keepWaiting_v : (s.keepWaiting).v = s.v := rfl
@[simp] theorem State.keepWaiting_i : (s.keepWaiting).i = s.i := rfl
@[simp] theorem State.keepWaiting_pc : (s.keepWaiting).pc = s.pc := rfl
@[simp] theorem State.keepWaiting_stack : (s.keepWaiting).stack = s.stack := rfl
@[simp] theorem State.keepWaiting_sp : (s.keepWaiting).sp = s.sp := rfl
@[simp] theorem State.keepWaiting_dt : (s.keepWaiting).dt = s.dt := rfl
@[simp] theorem State.keepWaiting_st : (s.keepWaiting).st = s.st := rfl
@[simp] theorem State.keepWaiting_waiting : (s.keepWaiting).waiting = true := rfl
@[simp] theorem State.keepWaiting_keyPrev : (s.keepWaiting).keyPrev = s.keys := rfl
@[simp] theorem State.keepWaiting_err : (s.keepWaiting).err = s.err := rfl
@[simp] theorem State.keepWaiting_mem : (s.keepWaiting).mem = s.mem := rfl
@[simp] theorem State.keepWaiting_disp : (s.keepWaiting).disp = s.disp := rfl
@[simp] theorem State.keepWaiting_status : (s.keepWaiting).status = .waiting := rfl
@[simp] theorem State.keepWaiting_keys : (s.keepWaiting).keys = s.keys := rfl
@[simp] theorem State.keepWaiting_rnd : (s.keepWaiting).rnd = s.rnd := rfl
@[simp] theorem State.keepWaiting_events : (s.keepWaiting).events = s.events := rfl
@[simp] theorem State.keepWaiting_draws : (s.keepWaiting).draws = s.draws := rfl
@[simp] theorem State.keepWaiting_getV (q : Reg) : (s.keepWaiting).getV q = s.getV q := rfl

/-! ### raise -/

@[simp] theorem State.raise_v (f : CoreFault) : (s.raise f).v = s.v := rfl
@[simp] theorem State.raise_i (f : CoreFault) : (s.raise f).i = s.i := rfl
@[simp] theorem State.raise_pc (f : CoreFault) : (s.raise f).pc = s.pc := rfl
@[simp] theorem State.raise_stack (f : CoreFault) : (s.raise f).stack = s.stack := rfl
@[simp] theorem State.raise_sp (f : CoreFault) : (s.raise f).sp = s.sp := rfl
@[simp] theorem State.raise_dt (f : CoreFault) : (s.raise f).dt = s.dt := rfl
@[simp] theorem State.raise_st (f : CoreFault) : (s.raise f).st = s.st := rfl
@[simp] theorem State.raise_waiting (f : CoreFault) : (s.raise f).waiting = s.waiting := rfl
@[simp] theorem State.raise_keyPrev (f : CoreFault) : (s.raise f).keyPrev = s.keyPrev := rfl
@[simp] theorem State.raise_err (f : CoreFault) : (s.raise f).err = ⟨true, f.code, s.pc, f.info⟩ := rfl
@[simp] theorem State.raise_mem (f : CoreFault) : (s.raise f).mem = s.mem := rfl
@[simp] theorem State.raise_disp (f : CoreFault) : (s.raise f).disp = s.disp := rfl
@[simp] theorem State.raise_status (f : CoreFault) : (s.raise f).status = .fault f.code s.pc f.info := rfl
@[simp] theorem State.raise_keys (f : CoreFault) : (s.raise f).keys = s.keys := rfl
@[simp] theorem State.raise_rnd (f : CoreFault) : (s.raise f).rnd = s.rnd := rfl
@[simp] theorem State.raise_events (f : CoreFault) : (s.raise f).events = s.events := rfl
@[simp] theorem State.raise_draws (f : CoreFault) : (s.raise f).draws = s.draws := rfl
@[simp] theorem State.raise_getV (f : CoreFault) (q : Reg) : (s.raise f).getV q = s.getV q := rfl

/-! ### refuseStep -/

@[simp] theorem State.refuseStep_v : (s.refuseStep).v = s.v := rfl
@[simp] theorem State.refuseStep_i : (s.refuseStep).i = s.i := rfl
@[simp] theorem State.refuseStep_pc : (s.refuseStep).pc = s.pc := rfl
@[simp] theorem State.refuseStep_stack : (s.refuseStep).stack = s.stack := rfl
@[simp] theorem State.refuseStep_sp : (s.refuseStep).sp = s.sp := rfl
@[simp] theorem State.refuseStep_dt : (s.refuseStep).dt = s.dt := rfl
@[simp] theorem State.refuseStep_st : (s.refuseStep).st = s.st := rfl
@[simp] theorem State.refuseStep_waiting : (s.refuseStep).waiting = s.waiting := rfl
@[simp] theorem State.refuseStep_keyPrev : (s.refuseStep).keyPrev = s.keyPrev := rfl
@[simp] theorem State.refuseStep_err : (s.refuseStep).err = s.err := rfl
@[simp] theorem State.refuseStep_mem : (s.refuseStep).mem = s.mem := rfl
@[simp] theorem State.refuseStep_disp : (s.refuseStep).disp = s.disp := rfl
@[simp] theorem State.refuseStep_status : (s.refuseStep).status = .fault s.err.code s.err.pc s.err.info := rfl
@[simp] theorem State.refuseStep_keys : (s.refuseStep).keys = s.keys := rfl
@[simp] theorem State.refuseStep_rnd : (s.refuseStep).rnd = s.rnd := rfl
@[simp] theorem State.refuseStep_events : (s.refuseStep).events = s.events := rfl
@[simp] theorem State.refuseStep_draws : (s.refuseStep).draws = s.draws := rfl
@[simp] theorem State.refuseStep_getV (q : Reg) : (s.refuseStep).getV q = s.getV q := rfl

/-! ### present -/

@[simp] theorem State.present_v (k : Keys) (b : Byte) : (s.present k b).v = s.v := rfl
@[simp] theorem State.present_i (k : Keys) (b : Byte) : (s.present k b).i = s.i := rfl
@[simp] theorem State.present_pc (k : Keys) (b : Byte) : (s.present k b).pc = s.pc := rfl
@[simp] theorem State.present_stack (k : Keys) (b : Byte) : (s.present k b).stack = s.stack := rfl
@[simp] theorem State.present_sp (k : Keys) (b : Byte) : (s.present k b).sp = s.sp := rfl
@[simp] theorem State.present_dt (k : Keys) (b : Byte) : (s.present k b).dt = s.dt := rfl
@[simp] theorem State.present_st (k : Keys) (b : Byte) : (s.present k b).st = s.st := rfl
@[simp] theorem State.present_waiting (k : Keys) (b : Byte) : (s.present k b).waiting = s.waiting := rfl
@[simp] theorem State.present_keyPrev (k : Keys) (b : Byte) : (s.present k b).keyPrev = s.keyPrev := rfl
@[simp] theorem State.present_err (k : Keys) (b : Byte) : (s.present k b).err = s.err := rfl
@[simp] theorem State.present_mem (k : Keys) (b : Byte) : (s.present k b).mem = s.mem := rfl
@[simp] theorem State.present_disp (k : Keys) (b : Byte) : (s.present k b).disp = s.disp := rfl
@[simp] theorem State.present_status (k : Keys) (b : Byte) : (s.present k b).status = s.status := rfl
@[simp] theorem State.present_keys (k : Keys) (b : Byte) : (s.present k b).keys = k := rfl
@[simp] theorem State.present_rnd (k : Keys) (b : Byte) : (s.present k b).rnd = b := rfl
@[simp] theorem State.present_events (k : Keys) (b : Byte) : (s.present k b).events = s.events := rfl
@[simp] theorem State.present_draws (k : Keys) (b : Byte) : (s.present k b).draws = s.draws := rfl
@[simp] theorem State.present_getV (k : Keys) (b : Byte) (q : Reg) : (s.present k b).getV q = s.getV q := rfl

/-! ### tickEvent -/

@[simp] theorem State.tickEvent_v : (s.tickEvent).v = s.v := rfl
@[simp] theorem State.tickEvent_i : (s.tickEvent).i = s.i := rfl
@[simp] theorem State.tickEvent_pc : (s.tickEvent).pc = s.pc := rfl
@[simp] theorem State.tickEvent_stack : (s.tickEvent).stack = s.stack := rfl
@[simp] theorem State.tickEvent_sp : (s.tickEvent).sp = s.sp := rfl
@[simp] theorem State.tickEvent_dt : (s.tickEvent).dt = countDown s.dt := rfl
@[simp] theorem State.tickEvent_st : (s.tickEvent).st = countDown s.st := rfl
@[simp] theorem State.tickEvent_waiting : (s.tickEvent).waiting = s.waiting := rfl
@[simp] theorem State.tickEvent_keyPrev : (s.tickEvent).keyPrev = s.keyPrev := rfl
@[simp] theorem State.tickEvent_err : (s.tickEvent).err = s.err := rfl
@[simp] theorem State.tickEvent_mem : (s.tickEvent).mem = s.mem := rfl
@[simp] theorem State.tickEvent_disp : (s.tickEvent).disp = s.disp := rfl
@[simp] theorem State.tickEvent_status : (s.tickEvent).status = s.status := rfl
@[simp] theorem State.tickEvent_keys : (s.tickEvent).keys = s.keys := rfl
@[simp] theorem State.tickEvent_rnd : (s.tickEvent).rnd = s.rnd := rfl
@[simp] theorem State.tickEvent_events : (s.tickEvent).events = s.events := rfl
@[simp] theorem State.tickEvent_draws : (s.tickEvent).draws = s.draws := rfl
@[simp] theorem State.tickEvent_getV (q : Reg) : (s.tickEvent).getV q = s.getV q := rfl

/-! ### resetEvent -/

@[simp] theorem State.resetEvent_v : (s.resetEvent).v = State.reset.v := rfl
@[simp] theorem State.resetEvent_i : (s.resetEvent).i = State.reset.i := rfl
@[simp] theorem State.resetEvent_pc : (s.resetEvent).pc = State.reset.pc := rfl
@[simp] theorem State.resetEvent_stack : (s.resetEvent).stack = State.reset.stack := rfl
@[simp] theorem State.resetEvent_sp : (s.resetEvent).sp = State.reset.sp := rfl
@[simp] theorem State.resetEvent_dt : (s.resetEvent).dt = State.reset.dt := rfl
@[simp] theorem State.resetEvent_st : (s.resetEvent).st = State.reset.st := rfl
@[simp] theorem State.resetEvent_waiting : (s.resetEvent).waiting = State.reset.waiting := rfl
@[simp] theorem State.resetEvent_keyPrev : (s.resetEvent).keyPrev = State.reset.keyPrev := rfl
@[simp] theorem State.resetEvent_err : (s.resetEvent).err = State.reset.err := rfl
@[simp] theorem State.resetEvent_mem : (s.resetEvent).mem = s.mem := rfl
@[simp] theorem State.resetEvent_disp : (s.resetEvent).disp = State.reset.disp := rfl
@[simp] theorem State.resetEvent_status : (s.resetEvent).status = State.reset.status := rfl
@[simp] theorem State.resetEvent_keys : (s.resetEvent).keys = s.keys := rfl
@[simp] theorem State.resetEvent_rnd : (s.resetEvent).rnd = s.rnd := rfl
@[simp] theorem State.resetEvent_events : (s.resetEvent).events = s.events := rfl
@[simp] theorem State.resetEvent_draws : (s.resetEvent).draws = s.draws := rfl

/-! ### setFlag -/

@[simp] theorem State.setFlag_v (f : Bool) : (s.setFlag f).v = s.v.set 15 (flagByte f) := rfl
@[simp] theorem State.setFlag_i (f : Bool) : (s.setFlag f).i = s.i := rfl
@[simp] theorem State.setFlag_pc (f : Bool) : (s.setFlag f).pc = s.pc := rfl
@[simp] theorem State.setFlag_stack (f : Bool) : (s.setFlag f).stack = s.stack := rfl
@[simp] theorem State.setFlag_sp (f : Bool) : (s.setFlag f).sp = s.sp := rfl
@[simp] theorem State.setFlag_dt (f : Bool) : (s.setFlag f).dt = s.dt := rfl
@[simp] theorem State.setFlag_st (f : Bool) : (s.setFlag f).st = s.st := rfl
@[simp] theorem State.setFlag_waiting (f : Bool) : (s.setFlag f).waiting = s.waiting := rfl
@[simp] theorem State.setFlag_keyPrev (f : Bool) : (s.setFlag f).keyPrev = s.keyPrev := rfl
@[simp] theorem State.setFlag_err (f : Bool) : (s.setFlag f).err = s.err := rfl
@[simp] theorem State.setFlag_mem (f : Bool) : (s.setFlag f).mem = s.mem := rfl
@[simp] theorem State.setFlag_disp (f : Bool) : (s.setFlag f).disp = s.disp := rfl
@[simp] theorem State.setFlag_status (f : Bool) : (s.setFlag f).status = s.status := rfl
@[simp] theorem State.setFlag_keys (f : Bool) : (s.setFlag f).keys = s.keys := rfl
@[simp] theorem State.setFlag_rnd (f : Bool) : (s.setFlag f).rnd = s.rnd := rfl
@[simp] theorem State.setFlag_events (f : Bool) : (s.setFlag f).events = s.events := rfl
@[simp] theorem State.setFlag_draws (f : Bool) : (s.setFlag f).draws = s.draws := rfl

/-! ### writeFlagged -/

@[simp] theorem State.writeFlagged_v (f : Bool) (x : Reg) (b : Byte) : (s.writeFlagged f x b).v = (s.v.set 15 (flagByte f)).set x.toNat b x.isLt := rfl
@[simp] theorem State.writeFlagged_i (f : Bool) (x : Reg) (b : Byte) : (s.writeFlagged f x b).i = s.i := rfl
@[simp] theorem State.writeFlagged_pc (f : Bool) (x : Reg) (b : Byte) : (s.writeFlagged f x b).pc = s.pc := rfl
@[simp] theorem State.writeFlagged_stack (f : Bool) (x : Reg) (b : Byte) : (s.writeFlagged f x b).stack = s.stack := rfl
@[simp] theorem State.writeFlagged_sp (f : Bool) (x : Reg) (b : Byte) : (s.writeFlagged f x b).sp = s.sp := rfl
@[simp] theorem State.writeFlagged_dt (f : Bool) (x : Reg) (b : Byte) : (s.writeFlagged f x b).dt = s.dt := rfl
@[simp] theorem State.writeFlagged_st (f : Bool) (x : Reg) (b : Byte) : (s.writeFlagged f x b).st = s.st := rfl
@[simp] theorem State.writeFlagged_waiting (f : Bool) (x : Reg) (b : Byte) : (s.writeFlagged f x b).waiting = s.waiting := rfl
@[simp] theorem State.writeFlagged_keyPrev (f : Bool) (x : Reg) (b : Byte) : (s.writeFlagged f x b).keyPrev = s.keyPrev := rfl
@[simp] theorem State.writeFlagged_err (f : Bool) (x : Reg) (b : Byte) : (s.writeFlagged f x b).err = s.err := rfl
@[simp] theorem State.writeFlagged_mem (f : Bool) (x : Reg) (b : Byte) : (s.writeFlagged f x b).mem = s.mem := rfl
@[simp] theorem State.writeFlagged_disp (f : Bool) (x : Reg) (b : Byte) : (s.writeFlagged f x b).disp = s.disp := rfl
@[simp] theorem State.writeFlagged_status (f : Bool) (x : Reg) (b : Byte) : (s.writeFlagged f x b).status = s.status := rfl
@[simp] theorem State.writeFlagged_keys (f : Bool) (x : Reg) (b : Byte) : (s.writeFlagged f x b).keys = s.keys := rfl
@[simp] theorem State.writeFlagged_rnd (f : Bool) (x : Reg) (b : Byte) : (s.writeFlagged f x b).rnd = s.rnd := rfl
@[simp] theorem State.writeFlagged_events (f : Bool) (x : Reg) (b : Byte) : (s.writeFlagged f x b).events = s.events := rfl
@[simp] theorem State.writeFlagged_draws (f : Bool) (x : Reg) (b : Byte) : (s.writeFlagged f x b).draws = s.draws := rfl

/-! ### taking the driver's next event -/

@[simp] theorem State.dropEvent_v : s.dropEvent.v = s.v := by
  unfold State.dropEvent; split <;> rfl
@[simp] theorem State.dropEvent_i : s.dropEvent.i = s.i := by
  unfold State.dropEvent; split <;> rfl
@[simp] theorem State.dropEvent_pc : s.dropEvent.pc = s.pc := by
  unfold State.dropEvent; split <;> rfl
@[simp] theorem State.dropEvent_stack : s.dropEvent.stack = s.stack := by
  unfold State.dropEvent; split <;> rfl
@[simp] theorem State.dropEvent_sp : s.dropEvent.sp = s.sp := by
  unfold State.dropEvent; split <;> rfl
@[simp] theorem State.dropEvent_dt : s.dropEvent.dt = s.dt := by
  unfold State.dropEvent; split <;> rfl
@[simp] theorem State.dropEvent_st : s.dropEvent.st = s.st := by
  unfold State.dropEvent; split <;> rfl
@[simp] theorem State.dropEvent_waiting : s.dropEvent.waiting = s.waiting := by
  unfold State.dropEvent; split <;> rfl
@[simp] theorem State.dropEvent_keyPrev : s.dropEvent.keyPrev = s.keyPrev := by
  unfold State.dropEvent; split <;> rfl
@[simp] theorem State.dropEvent_err : s.dropEvent.err = s.err := by
  unfold State.dropEvent; split <;> rfl
@[simp] theorem State.dropEvent_mem : s.dropEvent.mem = s.mem := by
  unfold State.dropEvent; split <;> rfl
@[simp] theorem State.dropEvent_disp : s.dropEvent.disp = s.disp := by
  unfold State.dropEvent; split <;> rfl
@[simp] theorem State.dropEvent_status : s.dropEvent.status = s.status := by
  unfold State.dropEvent; split <;> rfl
@[simp] theorem State.dropEvent_keys : s.dropEvent.keys = s.keys := by
  unfold State.dropEvent; split <;> rfl
@[simp] theorem State.dropEvent_rnd : s.dropEvent.rnd = s.rnd := by
  unfold State.dropEvent; split <;> rfl
@[simp] theorem State.dropEvent_getV (q : Reg) : s.dropEvent.getV q = s.getV q := by
  unfold State.dropEvent; split <;> rfl

theorem State.dropEvent_events : s.dropEvent.events = s.events.tail := by
  unfold State.dropEvent
  split <;> simp_all

theorem State.nextEvent_cons {e : Event} {es : List Event} (h : s.events = e :: es) : s.nextEvent = e := by
  simp [State.nextEvent, h]

/-! ### reading a register after a write -/

theorem State.getV_setV (r q : Reg) (b : Byte) : (s.setV r b).getV q = if q = r then b else s.getV q := by
  simp only [State.getV, State.setV, Vector.getElem_set]
  by_cases h : q = r
  · simp [h]
  · have : ¬ r.toNat = q.toNat := fun e => h (BitVec.eq_of_toNat_eq e.symm)
    simp [h, this]

@[simp] theorem State.getV_setV_self (r : Reg) (b : Byte) : (s.setV r b).getV r = b := by
  simp [State.getV_setV]

@[simp] theorem State.getV_setV_ne {r q : Reg} (b : Byte) (h : q ≠ r) : (s.setV r b).getV q = s.getV q := by
  simp [State.getV_setV, h]

theorem State.getV_setFlag (f : Bool) (q : Reg) :
    (s.setFlag f).getV q = if q = vf then flagByte f else s.getV q := State.getV_setV s vf q _

/-- R12: with x = F the data remains; else VF is the flag. -/
theorem State.getV_writeFlagged (f : Bool) (x q : Reg) (b : Byte) :
    (s.writeFlagged f x b).getV q = if q = x then b else if q = vf then flagByte f else s.getV q := by
  simp [State.writeFlagged, State.getV_setV, State.getV_setFlag]

/-- Equal registers are an equal register file. -/
theorem State.v_ext {s t : State} (h : ∀ r, s.getV r = t.getV r) : s.v = t.v := by
  apply Vector.ext
  intro k hk
  have := h (BitVec.ofNat 4 k)
  simpa [State.getV, Nat.mod_eq_of_lt hk] using this

end Sys2Proof.Machine
end

