-- ==== Sys2Proof/Laws/Ops.lean ====
section
/-! SUPPORT. One lemma per shared operation that says everything it can do: the bounds check, the stack, register
blocks, the keys, the fetch. -/

namespace Sys2Proof.Machine

variable (s : State)

/-! ### the bounds check (R46, R47) -/

theorem rangeFaults_iff (a : Word) (len : Nat) :
    rangeFaults a len = true ↔ len > 0 ∧ a.toNat + len - 1 > 0xFFF := by
  simp [rangeFaults]

/-- Inside memory the access goes on. -/
theorem State.guardRange_inside (a : Word) (len : Nat) (k : State) (h : len = 0 ∨ a.toNat + len - 1 ≤ 0xFFF) :
    s.guardRange a len k = k := by
  have : ¬ rangeFaults a len = true := by rw [rangeFaults_iff]; omega
  simp [State.guardRange, this]

/-- Outside memory the fault is taken. -/
theorem State.guardRange_outside (a : Word) (len : Nat) (k : State) (h0 : len > 0) (h : a.toNat + len - 1 > 0xFFF) :
    s.guardRange a len k = s.raise (.outOfBounds (firstBadAddress a)) := by
  have : rangeFaults a len = true := (rangeFaults_iff a len).2 ⟨h0, h⟩
  simp [State.guardRange, this]

/-- The one case analysis of a guarded access. -/
theorem State.guardRange_cases (a : Word) (len : Nat) (k : State) :
    ((len = 0 ∨ a.toNat + len - 1 ≤ 0xFFF) ∧ s.guardRange a len k = k) ∨
    (len > 0 ∧ a.toNat + len - 1 > 0xFFF ∧
      s.guardRange a len k = s.raise (.outOfBounds (firstBadAddress a))) := by
  by_cases h : len > 0 ∧ a.toNat + len - 1 > 0xFFF
  · exact .inr ⟨h.1, h.2, s.guardRange_outside a len k h.1 h.2⟩
  · have h' : len = 0 ∨ a.toNat + len - 1 ≤ 0xFFF := by omega
    exact .inl ⟨h', s.guardRange_inside a len k h'⟩

/-- The reported address fits the record. -/
theorem firstBadAddress_lt (a : Word) : firstBadAddress a < 65536 := by
  have := a.isLt
  simp only [firstBadAddress]
  omega

theorem outOfBounds_info_toNat (a : Word) :
    (CoreFault.info (.outOfBounds (firstBadAddress a))).toNat = max a.toNat 0x1000 := by
  have := firstBadAddress_lt a
  simp only [CoreFault.info, BitVec.toNat_ofNat, firstBadAddress] at *
  exact Nat.mod_eq_of_lt this

/-! ### the call stack (R17) -/

/-- Everything a push can do. -/
theorem State.pushAndJump_cases (ret target : Word) :
    (∃ h : s.sp.val < 16, s.pushAndJump ret target =
      State.retire target { s with stack := s.stack.set s.sp.val ret h, sp := ⟨s.sp.val + 1, by omega⟩ }) ∨
    (s.sp.val = 16 ∧ s.pushAndJump ret target = s.raise (.stackOverflow 16)) := by
  by_cases h : s.sp.val < 16
  · exact .inl ⟨h, by simp [State.pushAndJump, h]⟩
  · exact .inr ⟨by omega, by simp [State.pushAndJump, h]⟩

/-- Everything a pop can do. -/
theorem State.popAndJump_cases :
    (∃ h : 0 < s.sp.val, s.popAndJump =
      State.retire (s.stack[s.sp.val - 1]'(by omega)) { s with sp := ⟨s.sp.val - 1, by omega⟩ }) ∨
    (s.sp.val = 0 ∧ s.popAndJump = s.raise (.stackUnderflow 0)) := by
  by_cases h : 0 < s.sp.val
  · exact .inl ⟨h, by simp [State.popAndJump, h]⟩
  · exact .inr ⟨by omega, by simp [State.popAndJump, h]⟩

/-! ### register blocks (R124, R125) -/

/-- A block load changes registers only: it is one update of the register file. -/
theorem State.loadBlock_eq (p n : Nat) : State.loadBlock p n s = { s with v := (State.loadBlock p n s).v } := by
  induction n with
  | zero => rfl
  | succ n ih =>
    simp only [State.loadBlock]
    rw [ih]
    rfl

@[simp] theorem State.loadBlock_i (p n : Nat) : (State.loadBlock p n s).i = s.i := by
  rw [State.loadBlock_eq]
@[simp] theorem State.loadBlock_pc (p n : Nat) : (State.loadBlock p n s).pc = s.pc := by
  rw [State.loadBlock_eq]
@[simp] theorem State.loadBlock_stack (p n : Nat) : (State.loadBlock p n s).stack = s.stack := by
  rw [State.loadBlock_eq]
@[simp] theorem State.loadBlock_sp (p n : Nat) : (State.loadBlock p n s).sp = s.sp := by
  rw [State.loadBlock_eq]
@[simp] theorem State.loadBlock_dt (p n : Nat) : (State.loadBlock p n s).dt = s.dt := by
  rw [State.loadBlock_eq]
@[simp] theorem State.loadBlock_st (p n : Nat) : (State.loadBlock p n s).st = s.st := by
  rw [State.loadBlock_eq]
@[simp] theorem State.loadBlock_waiting (p n : Nat) : (State.loadBlock p n s).waiting = s.waiting := by
  rw [State.loadBlock_eq]
@[simp] theorem State.loadBlock_keyPrev (p n : Nat) : (State.loadBlock p n s).keyPrev = s.keyPrev := by
  rw [State.loadBlock_eq]
@[simp] theorem State.loadBlock_err (p n : Nat) : (State.loadBlock p n s).err = s.err := by
  rw [State.loadBlock_eq]
@[simp] theorem State.loadBlock_mem (p n : Nat) : (State.loadBlock p n s).mem = s.mem := by
  rw [State.loadBlock_eq]
@[simp] theorem State.loadBlock_disp (p n : Nat) : (State.loadBlock p n s).disp = s.disp := by
  rw [State.loadBlock_eq]
@[simp] theorem State.loadBlock_status (p n : Nat) : (State.loadBlock p n s).status = s.status := by
  rw [State.loadBlock_eq]
@[simp] theorem State.loadBlock_keys (p n : Nat) : (State.loadBlock p n s).keys = s.keys := by
  rw [State.loadBlock_eq]
@[simp] theorem State.loadBlock_rnd (p n : Nat) : (State.loadBlock p n s).rnd = s.rnd := by
  rw [State.loadBlock_eq]
@[simp] theorem State.loadBlock_events (p n : Nat) : (State.loadBlock p n s).events = s.events := by
  rw [State.loadBlock_eq]
@[simp] theorem State.loadBlock_draws (p n : Nat) : (State.loadBlock p n s).draws = s.draws := by
  rw [State.loadBlock_eq]

/-- After a block load, registers below `n` hold their bytes and the others are unchanged. -/
theorem State.loadBlock_getV (p n : Nat) (hn : n ≤ 16) (q : Reg) :
    (State.loadBlock p n s).getV q = if q.toNat < n then Memory.read (p + q.toNat) s.mem else s.getV q := by
  induction n with
  | zero => simp [State.loadBlock]
  | succ n ih =>
    have hq : q = BitVec.ofNat 4 n ↔ q.toNat = n := by
      constructor
      · intro h
        rw [h, BitVec.toNat_ofNat]
        exact Nat.mod_eq_of_lt (by omega)
      · intro h
        apply BitVec.eq_of_toNat_eq
        rw [h, BitVec.toNat_ofNat, Nat.mod_eq_of_lt (by omega)]
    simp only [State.loadBlock, State.getV_setV, ih (by omega), hq]
    by_cases h : q.toNat = n
    · simp [h]
    · have : q.toNat < n + 1 ↔ q.toNat < n := by omega
      simp [h, this]

@[simp] theorem State.blockBytes_length (x : Reg) : (s.blockBytes x).length = x.toNat + 1 := by
  have := x.isLt
  simp only [State.blockBytes, List.length_take, Vector.length_toList]
  omega

/-- Byte k of the block is V[k]. -/
theorem State.blockBytes_getElem (x q : Reg) (h : q.toNat < (s.blockBytes x).length) :
    (s.blockBytes x)[q.toNat] = s.getV q := by
  simp [State.blockBytes, State.getV]

/-! ### the keys (R134) -/

theorem State.keyEdges_getLsbD (k : Nat) (hk : k < 16) :
    s.keyEdges.getLsbD k = (s.keys.getLsbD k && !s.keyPrev.getLsbD k) := by
  simp [State.keyEdges, hk]

/-- The lowest key is below 16, newly down, and none below it is. -/
theorem lowestKey_some {e : Keys} {k : Nat} :
    lowestKey e = some k ↔ k < 16 ∧ e.getLsbD k = true ∧ ∀ j < k, e.getLsbD j = false := by
  simp only [lowestKey]
  rw [List.find?_range_eq_some]
  simp only [List.mem_range]
  constructor
  · rintro ⟨h, hk, hj⟩
    exact ⟨hk, h, fun j hjk => by simpa using hj j hjk⟩
  · rintro ⟨hk, h, hj⟩
    exact ⟨h, hk, fun j hjk => by simpa using hj j hjk⟩

theorem lowestKey_none {e : Keys} : lowestKey e = none ↔ ∀ k < 16, e.getLsbD k = false := by
  simp [lowestKey]

/-! ### fetch (R15, R43, R46) -/

/-- The two bytes at PC as a word. -/
def State.wordAtPc (s : State) : Word :=
  Memory.read s.pc.toNat s.mem ++ Memory.read (s.pc.toNat + 1) s.mem

/-- Everything a fetch can do. -/
theorem State.fetchWord_cases :
    (s.pc.toNat ≤ 0xFFE ∧ s.fetchWord = .ok s.wordAtPc) ∨
    (s.pc.toNat > 0xFFE ∧ s.fetchWord = .error (.outOfBounds (firstBadAddress s.pc))) := by
  by_cases h : rangeFaults s.pc 2 = true
  · exact .inr ⟨by have := (rangeFaults_iff _ _).1 h; omega, by simp [State.fetchWord, h]⟩
  · refine .inl ⟨by rw [rangeFaults_iff] at h; omega, ?_⟩
    simp [State.fetchWord, h, State.wordAtPc, bytesWord]

end Sys2Proof.Machine
end

