-- ==== Sys2Proof/Laws/Exec.lean ====
section
/-! SUPPORT. What an instruction and a step can do, said once: later proofs cite these instead of unfolding `exec` or
`step`. -/

namespace Sys2Proof.Machine

/-- Every instruction answers a next state. -/
theorem exec_answers (i : Instr) (s : State) : ∃ t, exec i s = .next t := by
  cases i <;> exact ⟨_, rfl⟩

/-- The three ways an instruction ends (R5, R134, R157): a fault taken on the state before it, a wait kept, or a
completion that leaves ERR, KEY_PREV, the inputs and the driver's plan alone. -/
theorem exec_shape {i : Instr} {s t : State} (h : exec i s = .next t) :
    (∃ f, t = s.raise f) ∨ ((∃ x, i = .ldVxK x) ∧ t = s.keepWaiting) ∨
    (∃ (p : Word) (u : State), t = u.retire p ∧ u.err = s.err ∧ u.keyPrev = s.keyPrev ∧ u.keys = s.keys ∧
      u.rnd = s.rnd ∧ u.events = s.events ∧ u.draws = s.draws) := by
  cases i
  case ret =>
    cases h
    rcases s.popAndJump_cases with ⟨hs, h⟩ | ⟨_, h⟩
    · exact .inr (.inr ⟨_, _, h, rfl, rfl, rfl, rfl, rfl, rfl⟩)
    · exact .inl ⟨_, h⟩
  case call nnn =>
    cases h
    rcases s.pushAndJump_cases s.npc (zextAddr nnn) with ⟨hs, h⟩ | ⟨_, h⟩
    · exact .inr (.inr ⟨_, _, h, rfl, rfl, rfl, rfl, rfl, rfl⟩)
    · exact .inl ⟨_, h⟩
  case drw x y n =>
    cases h
    rcases s.guardRange_cases s.i n.toNat _ with ⟨_, h⟩ | ⟨_, _, h⟩
    · exact .inr (.inr ⟨_, _, h, rfl, rfl, rfl, rfl, rfl, rfl⟩)
    · exact .inl ⟨_, h⟩
  case ldB x =>
    cases h
    rcases s.guardRange_cases s.i 3 _ with ⟨_, h⟩ | ⟨_, _, h⟩
    · exact .inr (.inr ⟨_, _, h, rfl, rfl, rfl, rfl, rfl, rfl⟩)
    · exact .inl ⟨_, h⟩
  case storeRegs x =>
    cases h
    rcases s.guardRange_cases s.i (x.toNat + 1) _ with ⟨_, h⟩ | ⟨_, _, h⟩
    · exact .inr (.inr ⟨_, _, h, rfl, rfl, rfl, rfl, rfl, rfl⟩)
    · exact .inl ⟨_, h⟩
  case loadRegs x =>
    cases h
    rcases s.guardRange_cases s.i (x.toNat + 1) _ with ⟨_, h⟩ | ⟨_, _, h⟩
    · exact .inr (.inr ⟨_, _, h, by simp, by simp, by simp, by simp, by simp, by simp⟩)
    · exact .inl ⟨_, h⟩
  case ldVxK x =>
    simp only [exec, execLdVxK] at h
    split at h
    · split at h
      · cases h
        exact .inr (.inr ⟨_, _, rfl, rfl, rfl, rfl, rfl, rfl, rfl⟩)
      · cases h
        exact .inr (.inl ⟨⟨x, rfl⟩, rfl⟩)
    · cases h
      exact .inr (.inl ⟨⟨x, rfl⟩, rfl⟩)
  all_goals
    cases h
    exact .inr (.inr ⟨_, _, rfl, rfl, rfl, rfl, rfl, rfl, rfl⟩)

/-- Everything a Step event can do (R15, R21), its inputs presented. -/
theorem stepEvent_cases {s t : State} (h : s.stepEvent = .next t) :
    (s.err.valid = true ∧ t = s.refuseStep) ∨
    (s.err.valid = false ∧ ∃ f, s.fetchDecode = .error f ∧ t = s.raise f) ∨
    (s.err.valid = false ∧ ∃ i, s.fetchDecode = .ok i ∧ exec i s = .next t) := by
  unfold State.stepEvent at h
  split at h
  · rename_i hv
    cases h
    exact .inl ⟨hv, rfl⟩
  · rename_i hv
    have hv : s.err.valid = false := by simpa using hv
    split at h
    · rename_i f hf
      cases h
      exact .inr (.inl ⟨hv, f, hf, rfl⟩)
    · rename_i i hi
      exact .inr (.inr ⟨hv, i, hi, h⟩)

/-- Everything a step can do (R5). -/
theorem step_cases {s t : State} (h : step s = .next t) :
    (s.nextEvent = .reset ∧ t = s.dropEvent.resetEvent) ∨
    (s.nextEvent = .tick ∧ t = s.dropEvent.tickEvent) ∨
    (∃ k b, s.nextEvent = .step k b ∧ (s.dropEvent.present k b).stepEvent = .next t) := by
  unfold step State.perform at h
  split at h
  · rename_i he
    cases h
    exact .inl ⟨he, rfl⟩
  · rename_i k b he
    exact .inr (.inr ⟨k, b, he, h⟩)
  · rename_i he
    cases h
    exact .inr (.inl ⟨he, rfl⟩)

/-- Everything fetching and decoding can do (R15, R151, R154). -/
theorem fetchDecode_cases (s : State) :
    (s.pc.toNat > 0xFFE ∧ s.fetchDecode = .error (.outOfBounds (firstBadAddress s.pc))) ∨
    (s.pc.toNat ≤ 0xFFE ∧ selectInstr s.wordAtPc = none ∧ s.fetchDecode = .error (.unknownOpcode s.wordAtPc)) ∨
    (∃ i, s.pc.toNat ≤ 0xFFE ∧ selectInstr s.wordAtPc = some i ∧ s.fetchDecode = .ok i) := by
  rcases s.fetchWord_cases with ⟨hp, hw⟩ | ⟨hp, hw⟩
  · right
    cases hsel : selectInstr s.wordAtPc with
    | none => exact .inl ⟨hp, rfl, by simp [State.fetchDecode, hw, decodeWord, hsel]⟩
    | some i => exact .inr ⟨i, hp, rfl, by simp [State.fetchDecode, hw, decodeWord, hsel]⟩
  · exact .inl ⟨hp, by simp [State.fetchDecode, hw]⟩

/-- The fetch reads PC and memory and nothing else (R64, R15). -/
theorem fetchDecode_congr {s t : State} (hp : t.pc = s.pc) (hm : t.mem = s.mem) : t.fetchDecode = s.fetchDecode := by
  simp [State.fetchDecode, State.fetchWord, hp, hm]

end Sys2Proof.Machine
end

