-- ==== Sys2Proof/Laws/Launch.lean ====
section
/-! SUPPORT. The launch premises (spec/70_reset_and_hazards.md R183): which states they are, that the host's launch meets
them, and that they leave memory and the display to the host. -/

namespace Sys2Proof.Machine

open Sys2Proof.Safety

/-- The host's two writes are updates of one field each; the lemmas of setDisp and setMem say the rest. -/
@[simp] theorem State.loadDisplay_eq (s : State) (d : Display) : s.loadDisplay d = s.setDisp d := rfl
@[simp] theorem State.load_eq (s : State) (a : Nat) (bs : List Byte) :
    s.load a bs = s.setMem (Memory.writeBytes a bs s.mem) := rfl

/-- After a Reset the host may leave any memory and any display: the machine is launched. -/
theorem launched_of_host_writes (s : State) (m : Memory) (d : Display) (hm : m.wf = true) :
    launched ((s.resetEvent.setMem m).loadDisplay d) := ⟨rfl, hm⟩

/-- A launched machine is its own Reset but for the memory and the display the host left, so no fault is latched
(R183 (b)). -/
theorem launched_noFault {s : State} (h : launched s) : noFault s := by
  unfold noFault
  rw [← h.1]
  rfl

/-- The host's launch of a font and a program that fit (R182: at most 3584 bytes of program), with any display, meets the
premises. -/
theorem launched_launch (font program : List Byte) (screen : Display) (hf : font.length ≤ 4096)
    (hp : program.length ≤ 3584) : launched (State.launch font program screen) := by
  refine ⟨rfl, ?_⟩
  refine Memory.wf_writeBytes (Memory.wf_writeBytes Memory.wf_nil ?_) ?_
  · exact show 0 + font.length ≤ 4096 by omega
  · exact show 0x200 + program.length ≤ 4096 by omega

end Sys2Proof.Machine
end

