-- ==== Sys2Proof/Laws/PerInstr.lean ====
section
/-! SUPPORT. Facts about every instruction as syntax, one lemma per constructor. -/

namespace Sys2Proof.Laws.EncodesRow

/-- The encoding of an instruction has the fixed bits of its row of spec/30_encoding.md R65. -/
def Statement (i : Instr) : Prop := encode i &&& (rowOf i).mask = (rowOf i).pattern

theorem cls : Statement .cls := rfl

theorem ret : Statement .ret := rfl

theorem sys (nnn : Addr) : Statement (.sys nnn) := wordNNN_and_op _ _

theorem jp (nnn : Addr) : Statement (.jp nnn) := wordNNN_and_op _ _

theorem call (nnn : Addr) : Statement (.call nnn) := wordNNN_and_op _ _

theorem seImm (x : Reg) (kk : Byte) : Statement (.seImm x kk) := wordXKK_and_op _ _ _

theorem sneImm (x : Reg) (kk : Byte) : Statement (.sneImm x kk) := wordXKK_and_op _ _ _

theorem seReg (x : Reg) (y : Reg) : Statement (.seReg x y) := wordXYN_and_op_n _ _ _ _

theorem ldImm (x : Reg) (kk : Byte) : Statement (.ldImm x kk) := wordXKK_and_op _ _ _

theorem addImm (x : Reg) (kk : Byte) : Statement (.addImm x kk) := wordXKK_and_op _ _ _

theorem ldReg (x : Reg) (y : Reg) : Statement (.ldReg x y) := wordXYN_and_op_n _ _ _ _

theorem orReg (x : Reg) (y : Reg) : Statement (.orReg x y) := wordXYN_and_op_n _ _ _ _

theorem andReg (x : Reg) (y : Reg) : Statement (.andReg x y) := wordXYN_and_op_n _ _ _ _

theorem xorReg (x : Reg) (y : Reg) : Statement (.xorReg x y) := wordXYN_and_op_n _ _ _ _

theorem addReg (x : Reg) (y : Reg) : Statement (.addReg x y) := wordXYN_and_op_n _ _ _ _

theorem sub (x : Reg) (y : Reg) : Statement (.sub x y) := wordXYN_and_op_n _ _ _ _

theorem shr (x : Reg) (y : Reg) : Statement (.shr x y) := wordXYN_and_op_n _ _ _ _

theorem subn (x : Reg) (y : Reg) : Statement (.subn x y) := wordXYN_and_op_n _ _ _ _

theorem shl (x : Reg) (y : Reg) : Statement (.shl x y) := wordXYN_and_op_n _ _ _ _

theorem sneReg (x : Reg) (y : Reg) : Statement (.sneReg x y) := wordXYN_and_op_n _ _ _ _

theorem ldI (nnn : Addr) : Statement (.ldI nnn) := wordNNN_and_op _ _

theorem jpV0 (nnn : Addr) : Statement (.jpV0 nnn) := wordNNN_and_op _ _

theorem rnd (x : Reg) (kk : Byte) : Statement (.rnd x kk) := wordXKK_and_op _ _ _

theorem drw (x : Reg) (y : Reg) (n : BitVec 4) : Statement (.drw x y n) := wordXYN_and_op _ _ _ _

theorem skp (x : Reg) : Statement (.skp x) := wordXKK_and_op_kk _ _ _

theorem sknp (x : Reg) : Statement (.sknp x) := wordXKK_and_op_kk _ _ _

theorem ldVxDT (x : Reg) : Statement (.ldVxDT x) := wordXKK_and_op_kk _ _ _

theorem ldVxK (x : Reg) : Statement (.ldVxK x) := wordXKK_and_op_kk _ _ _

theorem ldDTVx (x : Reg) : Statement (.ldDTVx x) := wordXKK_and_op_kk _ _ _

theorem ldSTVx (x : Reg) : Statement (.ldSTVx x) := wordXKK_and_op_kk _ _ _

theorem addI (x : Reg) : Statement (.addI x) := wordXKK_and_op_kk _ _ _

theorem ldF (x : Reg) : Statement (.ldF x) := wordXKK_and_op_kk _ _ _

theorem ldB (x : Reg) : Statement (.ldB x) := wordXKK_and_op_kk _ _ _

theorem storeRegs (x : Reg) : Statement (.storeRegs x) := wordXKK_and_op_kk _ _ _

theorem loadRegs (x : Reg) : Statement (.loadRegs x) := wordXKK_and_op_kk _ _ _

end Sys2Proof.Laws.EncodesRow
end

