-- ==== Sys2Proof/Tests/Slice0.lean ====
section
/-! SUPPORT. The model's own tests: the smoke test of WellFormed, every row of the decoder table and vectors of
spec/95_test_vectors.md (named in each theorem's docstring), and for every obligation with hypotheses a concrete case
that meets them. -/

namespace Sys2Proof.Tests

open Sys2Proof.Machine Sys2Proof.Safety

/-! ## WellFormed -/

/-- R66: 0x00E0 and 0x00EE are not SYS; their neighbours are. -/
theorem test_wellFormed_refuses_cls_and_ret_words :
    ¬ (Instr.sys 0x0E0).WellFormed ∧ ¬ (Instr.sys 0x0EE).WellFormed ∧
    (Instr.sys 0x0E1).WellFormed ∧ (Instr.sys 0x0EF).WellFormed ∧ (Instr.sys 0xFFF).WellFormed := by decide

/-! ## Decoding: the rows of T-DEC -/

theorem test_decode_family_0 :
    decodeWord 0x0000 = .ok (.sys 0x000) ∧ decodeWord 0x00E0 = .ok .cls ∧ decodeWord 0x00EE = .ok .ret ∧
    decodeWord 0x00E1 = .ok (.sys 0x0E1) ∧ decodeWord 0x00ED = .ok (.sys 0x0ED) ∧
    decodeWord 0x00EF = .ok (.sys 0x0EF) ∧ decodeWord 0x0FFF = .ok (.sys 0xFFF) := by decide

theorem test_decode_families_1_to_7 :
    decodeWord 0x10E0 = .ok (.jp 0x0E0) ∧ decodeWord 0x1ABC = .ok (.jp 0xABC) ∧
    decodeWord 0x2FFF = .ok (.call 0xFFF) ∧ decodeWord 0x3A7F = .ok (.seImm 0xA 0x7F) ∧
    decodeWord 0x4B00 = .ok (.sneImm 0xB 0x00) ∧ decodeWord 0x5120 = .ok (.seReg 0x1 0x2) ∧
    decodeWord 0x6C80 = .ok (.ldImm 0xC 0x80) ∧ decodeWord 0x7D01 = .ok (.addImm 0xD 0x01) := by decide

/-- A word of each of the formats NNN, XKK and XYN, bit by bit (R61, R65). -/
theorem test_decode_bits :
    decodeWord 0b0001101010111100 = .ok (.jp 0b101010111100) ∧
    decodeWord 0b0011101001111111 = .ok (.seImm 0b1010 0b01111111) ∧
    decodeWord 0b1101000100100011 = .ok (.drw 0b0001 0b0010 0b0011) ∧
    decodeWord 0b1000101010110101 = .ok (.sub 0b1010 0b1011) := by decide

theorem test_decode_family_8 :
    decodeWord 0x8AB0 = .ok (.ldReg 0xA 0xB) ∧ decodeWord 0x8AB1 = .ok (.orReg 0xA 0xB) ∧
    decodeWord 0x8AB2 = .ok (.andReg 0xA 0xB) ∧ decodeWord 0x8AB3 = .ok (.xorReg 0xA 0xB) ∧
    decodeWord 0x8AB4 = .ok (.addReg 0xA 0xB) ∧ decodeWord 0x8AB5 = .ok (.sub 0xA 0xB) ∧
    decodeWord 0x8AB6 = .ok (.shr 0xA 0xB) ∧ decodeWord 0x8AB7 = .ok (.subn 0xA 0xB) ∧
    decodeWord 0x8ABE = .ok (.shl 0xA 0xB) := by decide

theorem test_decode_families_9_to_E :
    decodeWord 0x9CD0 = .ok (.sneReg 0xC 0xD) ∧ decodeWord 0xA123 = .ok (.ldI 0x123) ∧
    decodeWord 0xB456 = .ok (.jpV0 0x456) ∧ decodeWord 0xC7F0 = .ok (.rnd 0x7 0xF0) ∧
    decodeWord 0xD123 = .ok (.drw 0x1 0x2 0x3) ∧ decodeWord 0xD120 = .ok (.drw 0x1 0x2 0x0) ∧
    decodeWord 0xE09E = .ok (.skp 0x0) ∧ decodeWord 0xEFA1 = .ok (.sknp 0xF) := by decide

theorem test_decode_family_F :
    decodeWord 0xF007 = .ok (.ldVxDT 0x0) ∧ decodeWord 0xF10A = .ok (.ldVxK 0x1) ∧
    decodeWord 0xF215 = .ok (.ldDTVx 0x2) ∧ decodeWord 0xF318 = .ok (.ldSTVx 0x3) ∧
    decodeWord 0xF41E = .ok (.addI 0x4) ∧ decodeWord 0xF529 = .ok (.ldF 0x5) ∧
    decodeWord 0xF633 = .ok (.ldB 0x6) ∧ decodeWord 0xF755 = .ok (.storeRegs 0x7) ∧
    decodeWord 0xF865 = .ok (.loadRegs 0x8) := by decide

/-- The words of T-DEC that are no instruction. -/
theorem test_decode_rejects :
    [0x512F, 0x5001, 0x8AB8, 0x8AB9, 0x8ABA, 0x8ABD, 0x8ABF, 0x9CD1, 0xE19D, 0xE19F].map selectInstr =
      List.replicate 10 none ∧
    [0xE0A0, 0xE000, 0xF000, 0xF01F, 0xF030, 0xF075, 0xF085, 0xFA66, 0xF9FF, 0xFFFF].map selectInstr =
      List.replicate 10 none ∧
    decodeWord 0x8AB8 = .error (.unknownOpcode 0x8AB8) := by decide

/-- R43: the byte at the lower address is the high one; the rest of the bytes is left. -/
theorem test_decodeBytes :
    decodeBytes [0x6A, 0x55, 0x12, 0x34] = .ok (.ldImm 0xA 0x55, [0x12, 0x34]) ∧
    decodeBytes [0x6A] = .error .truncated := by decide

/-- The host's numbering of an instruction's bits, for words with operands and one that is no instruction. -/
theorem test_decodeTableWord :
    decodeTableWord 16 0xD123 = some (.drw 0x1 0x2 0x3) ∧ decodeTableWord 16 0x00E0 = some .cls ∧
    decodeTableWord 16 0x8AB8 = none := by decide

/-- Row by row the masks and patterns of R65 on some instruction of it. -/
theorem test_opcodeTable : opcodeTable.length = 35 ∧ tableRow 0x8AB6 = some ⟨0xF00F, 0x8006⟩ ∧
    tableRow 0x00EE = some ⟨0xFFFF, 0x00EE⟩ ∧ tableRow 0xF865 = some ⟨0xF0FF, 0xF065⟩ ∧
    tableRow 0xF075 = none := by decide

/-! ## One Step from a small state -/

/-- A state with the named registers, from reset (the Start column). -/
def start (vs : List (Reg × Byte)) : State := vs.foldl (fun s p => s.setV p.1 p.2) State.reset

/-- The outcome of one event. -/
def after (e : Event) (s : State) (p : State → Bool) : Bool :=
  match step { s with events := [e] } with
  | .next t => p t
  | .fault _ => false
  | .refused _ => false

/-- The outcome of a Step with the word at PC (the Word and In columns). -/
def runs (s : State) (w : Word) (p : State → Bool) (keys : Keys := 0) (rnd : Byte := 0) : Bool :=
  after (.step keys rnd) (s.load s.pc.toNat (wordBytes w)) p

/-- A fault latched and answered. -/
def faulted (code : BitVec 3) (pc info : Word) (t : State) : Bool :=
  t.err == { valid := true, code := code, pc := pc, info := info } && t.status == .fault code pc info

/-- An instruction completed. -/
def okAt (pc : Word) (t : State) : Bool := t.status == .ok && t.pc == pc && !t.waiting

/-- T-CF-1. -/
theorem test_sys : runs (start []) 0x0123 (fun t => okAt 0x0202 t) = true := by decide

/-- T-CF-5. -/
theorem test_ret : runs { start [] with pc := 0x400, sp := 16, stack := State.reset.stack.set 15 0x0ABC } 0x00EE
    (fun t => okAt 0x0ABC t && t.sp.val == 15 && t.stack[15] == 0x0ABC) = true := by decide

/-- T-CF-4. -/
theorem test_ret_underflow : runs (start []) 0x00EE (fun t => faulted 2 0x0200 0 t && t.pc == 0x0200) = true := by decide

/-- T-CF-9. -/
theorem test_jp : runs (start []) 0x1201 (okAt 0x0201) = true := by decide

/-- T-CF-13. -/
theorem test_call : runs { start [] with pc := 0xFFE } 0x2300
    (fun t => okAt 0x0300 t && t.sp.val == 1 && t.stack[0] == 0x1000) = true := by decide

/-- T-CF-12. -/
theorem test_call_overflow : runs { start [] with sp := 16 } 0x2300
    (fun t => faulted 3 0x0200 16 t && t.sp.val == 16 && t.pc == 0x0200) = true := by decide

/-- T-CF-15. -/
theorem test_jpV0 : runs (start [(0x0, 0xFF)]) 0xBFFF (okAt 0x10FE) = true := by decide

/-- T-CF-16: V0, not V3. -/
theorem test_jpV0_uses_V0 : runs (start [(0x0, 0x01), (0x3, 0x55)]) 0xB300 (okAt 0x0301) = true := by decide

/-- T-SK-13, T-SK-2. -/
theorem test_seImm : runs { start [] with pc := 0xFFE } 0x3000 (okAt 0x1002) = true ∧
    runs { start [(0x5, 0x02)] with pc := 0x208 } 0x3500 (okAt 0x020A) = true := by decide

/-- T-SK-3, T-SK-4. -/
theorem test_sneImm : runs { start [(0x1, 0x07)] with pc := 0x300 } 0x4107 (okAt 0x0302) = true ∧
    runs { start [(0x1, 0x07)] with pc := 0x300 } 0x4108 (okAt 0x0304) = true := by decide

/-- T-SK-5, T-SK-6. -/
theorem test_seReg : runs (start [(0x2, 0x44), (0x3, 0x44)]) 0x5230 (okAt 0x0204) = true ∧
    runs (start [(0x2, 0x44), (0x3, 0x45)]) 0x5230 (okAt 0x0202) = true := by decide

/-- T-SK-8, T-SK-9. -/
theorem test_sneReg : runs (start [(0x2, 0x01), (0x3, 0x02)]) 0x9230 (okAt 0x0204) = true ∧
    runs (start [(0x2, 0x01), (0x3, 0x01)]) 0x9230 (okAt 0x0202) = true := by decide

/-- T-ALU-1. -/
theorem test_ldImm : runs (start []) 0x60FF (fun t => okAt 0x0202 t && t.getV 0x0 == 0xFF) = true := by decide

/-- T-ALU-2: wraps, VF stays. -/
theorem test_addImm : runs (start [(0x5, 0x03), (0xF, 0x01)]) 0x75FF
    (fun t => okAt 0x0202 t && t.getV 0x5 == 0x02 && t.getV 0xF == 0x01) = true := by decide

/-- T-ALU-4. -/
theorem test_ldReg : runs (start [(0x1, 0x2A)]) 0x8010
    (fun t => t.getV 0x0 == 0x2A && t.getV 0x1 == 0x2A) = true := by decide

/-- T-ALU-5. -/
theorem test_orReg : runs (start [(0x0, 0x0F), (0x1, 0xF0), (0xF, 0x01)]) 0x8011
    (fun t => t.getV 0x0 == 0xFF && t.getV 0xF == 0x01) = true := by decide

/-- T-ALU-6. -/
theorem test_andReg : runs (start [(0x0, 0x3C), (0x1, 0x0F), (0xF, 0x01)]) 0x8012
    (fun t => t.getV 0x0 == 0x0C && t.getV 0xF == 0x01) = true := by decide

/-- T-ALU-7. -/
theorem test_xorReg : runs (start [(0x0, 0xFF), (0x1, 0x0F), (0xF, 0x01)]) 0x8013
    (fun t => t.getV 0x0 == 0xF0 && t.getV 0xF == 0x01) = true := by decide

/-- T-ALU-8, the source's S2. -/
theorem test_addReg : runs (start [(0x0, 0xFF), (0x1, 0x01)]) 0x8014
    (fun t => t.getV 0x0 == 0x00 && t.getV 0xF == 0x01) = true := by decide

/-- T-ALU-13: flag first, data second. -/
theorem test_addReg_into_VF : runs (start [(0xF, 0xFF), (0x0, 0x01)]) 0x8F04 (fun t => t.getV 0xF == 0x00) = true := by
  decide

/-- T-ALU-11, the source's S5. -/
theorem test_sub : runs (start [(0x2, 0x03), (0x3, 0x05), (0xF, 0x01)]) 0x8235
    (fun t => t.getV 0x2 == 0xFE && t.getV 0xF == 0x00) = true := by decide

/-- T-ALU-14. -/
theorem test_sub_into_VF : runs (start [(0xF, 0x05), (0x0, 0x03)]) 0x8F05 (fun t => t.getV 0xF == 0x02) = true := by
  decide

/-- T-ALU-12, the source's S6. -/
theorem test_shr : runs (start [(0x3, 0x03)]) 0x8306 (fun t => t.getV 0x3 == 0x01 && t.getV 0xF == 0x01) = true := by
  decide

/-- T-ALU-24: y is ignored. -/
theorem test_shr_ignores_y : runs (start [(0x0, 0x04), (0x1, 0xFF)]) 0x8016
    (fun t => t.getV 0x0 == 0x02 && t.getV 0x1 == 0xFF && t.getV 0xF == 0x00) = true := by decide

/-- T-ALU-22. -/
theorem test_subn : runs (start [(0x3, 0x03), (0x2, 0x02), (0xF, 0x01)]) 0x8327
    (fun t => t.getV 0x3 == 0xFF && t.getV 0xF == 0x00) = true := by decide

/-- T-ALU-16. -/
theorem test_subn_into_VF : runs (start [(0xF, 0x03), (0x0, 0x05)]) 0x8F07 (fun t => t.getV 0xF == 0x02) = true := by
  decide

/-- T-ALU-20. -/
theorem test_shl : runs (start [(0x3, 0x7F), (0xF, 0x01)]) 0x830E
    (fun t => t.getV 0x3 == 0xFE && t.getV 0xF == 0x00) = true := by decide

/-- T-ALU-17. -/
theorem test_shl_into_VF : runs (start [(0xF, 0x81)]) 0x8F0E (fun t => t.getV 0xF == 0x02) = true := by decide

/-- T-ALU-28. -/
theorem test_rnd : runs (start []) 0xC00F (fun t => okAt 0x0202 t && t.getV 0x0 == 0x07) 0 0xA7 = true := by decide

/-- T-IDX-1. -/
theorem test_ldI : runs (start []) 0xA300 (fun t => okAt 0x0202 t && t.i == 0x0300) = true := by decide

/-- T-IDX-4: modulo 65536, VF stays. -/
theorem test_addI : runs { start [(0x0, 0x02)] with i := 0xFFFF } 0xF01E
    (fun t => okAt 0x0202 t && t.i == 0x0001 && t.getV 0xF == 0x00) = true := by decide

/-- T-IDX-7: the low nibble. -/
theorem test_ldF : runs (start [(0x0, 0x1A)]) 0xF029 (fun t => okAt 0x0202 t && t.i == 0x0032) = true := by decide

/-- T-IDX-9. -/
theorem test_ldB : runs { start [(0x4, 0x7E)] with i := 0x300 } 0xF433 (fun t => okAt 0x0202 t && t.i == 0x300 &&
    Memory.read 0x300 t.mem == 1 && Memory.read 0x301 t.mem == 2 && Memory.read 0x302 t.mem == 6) = true := by decide

/-- T-IDX-13. -/
theorem test_ldB_out_of_bounds : runs { start [(0x3, 0x7B)] with i := 0xFFE } 0xF333
    (fun t => faulted 4 0x0200 0x1000 t && Memory.read 0xFFE t.mem == 0 && Memory.read 0xFFF t.mem == 0) = true := by
  decide

/-- T-IDX-15: three bytes, I unchanged. -/
theorem test_storeRegs : runs { start [(0x0, 0x11), (0x1, 0x22), (0x2, 0x33), (0x3, 0x44)] with i := 0x400 } 0xF255
    (fun t => okAt 0x0202 t && t.i == 0x400 &&
      t.mem == [(0x200, 0xF2), (0x201, 0x55), (0x400, 0x11), (0x401, 0x22), (0x402, 0x33)]) = true := by decide

/-- T-IDX-23. -/
theorem test_storeRegs_out_of_bounds : runs { start [(0x0, 0x5A)] with i := 0x1000 } 0xF055
    (faulted 4 0x0200 0x1000) = true := by decide

/-- T-IDX-19: three registers, V3 untouched. -/
theorem test_loadRegs : runs ({ start [(0x3, 0x99)] with i := 0x300 }.load 0x300 [1, 2, 6, 0x77]) 0xF265
    (fun t => okAt 0x0202 t && t.getV 0x0 == 1 && t.getV 0x1 == 2 && t.getV 0x2 == 6 && t.getV 0x3 == 0x99) = true := by
  decide

/-- T-IDX-21. -/
theorem test_loadRegs_out_of_bounds : runs ({ start [(0x0, 0xAA), (0x1, 0xBB)] with i := 0xFFF }.load 0xFFF [1]) 0xF165
    (fun t => faulted 4 0x0200 0x1000 t && t.getV 0x0 == 0xAA && t.getV 0x1 == 0xBB) = true := by decide

/-- A pixel on. -/
def lit (r : Fin 32) (c : Fin 64) (s : State) : State := s.setDisp (Display.flip s.disp r c)

/-- The pixels are all on, or all off. -/
def allAre (b : Bool) (ps : List (Fin 32 × Fin 64)) (s : State) : Bool :=
  ps.all (fun p => Display.pixel s.disp p.1 p.2 == b)

/-- T-DSP-1. -/
theorem test_cls : runs (lit 0 0 (lit 5 7 (lit 31 63 (start [(0xF, 0x01)])))) 0x00E0
    (fun t => okAt 0x0202 t && allAre false [(0, 0), (5, 7), (31, 63)] t && t.getV 0xF == 0x01) = true := by decide

/-- T-DSP-6: wrapping at both edges. -/
theorem test_drw_wraps : runs ({ start [(0x0, 0x3E), (0x1, 0x1F)] with i := 0x20C }.load 0x20C [0xF0, 0x81]) 0xD012
    (fun t => okAt 0x0202 t && t.getV 0xF == 0 &&
      allAre true [(0, 5), (0, 62), (31, 0), (31, 1), (31, 62), (31, 63)] t &&
      allAre false [(0, 0), (0, 63), (31, 2), (31, 61), (1, 62)] t) = true := by decide

/-- T-DSP-4: a partial collision. -/
theorem test_drw_collision : runs (({ lit 0 0 (start []) with i := 0x300 } : State).load 0x300 [0xC0]) 0xD011
    (fun t => okAt 0x0202 t && t.getV 0xF == 1 && allAre true [(0, 1)] t && allAre false [(0, 0), (0, 2)] t) = true := by decide

/-- T-KEY-5 and T-KEY-8. -/
theorem test_skp : runs (start [(0x0, 0x15)]) 0xE09E (okAt 0x0204) 0x0020 = true ∧
    runs (start []) 0xE09E (okAt 0x0202) 0xFFFE = true := by decide

/-- T-KEY-6 and T-KEY-4. -/
theorem test_sknp : runs (start [(0x0, 0xFF)]) 0xE0A1 (okAt 0x0202) 0x8000 = true ∧
    runs { start [(0x2, 0x05)] with pc := 0x20C } 0xE2A1 (okAt 0x0210) 0x0000 = true := by decide

/-- T-KEY-13, event 1. -/
theorem test_ldVxK_starts : runs (start [(0xF, 0x77)]) 0xFF0A (fun t => t.status == .waiting && t.waiting &&
    t.keyPrev == 0xFFFE && t.pc == 0x0200 && t.getV 0xF == 0x77) 0xFFFE = true := by decide

/-- T-KEY-12, event 2: the lowest of keys 6, 8 and 15. -/
theorem test_ldVxK_completes : runs { start [] with waiting := true } 0xF30A
    (fun t => okAt 0x0202 t && t.getV 0x3 == 6) 0x8140 = true := by decide

/-- T-TMR-1, events 2, 1 and 4. -/
theorem test_timers : runs { start [] with dt := 3 } 0xF107 (fun t => okAt 0x0202 t && t.getV 0x1 == 3 && t.dt == 3) = true ∧
    runs (start [(0x0, 0x03)]) 0xF015 (fun t => okAt 0x0202 t && t.dt == 3 && t.st == 0) = true ∧
    runs (start [(0x3, 0x1E)]) 0xF318 (fun t => okAt 0x0202 t && t.st == 0x1E && t.dt == 0 && t.soundOn) = true := by
  decide

/-- T-TMR-4, and T-TMR-3 with its second Tick. -/
theorem test_tick : after .tick { start [] with dt := 0xFF, st := 0x80 } (fun t => t.dt == 0xFE && t.st == 0x7F) = true ∧
    after .tick { start [] with dt := 1, st := 1 } (fun t => t.dt == 0 && t.st == 0 && !t.soundOn) = true ∧
    after .tick (start []) (fun t => t.dt == 0 && t.st == 0) = true := by decide

/-- T-FLT-13 and T-FLT-2: the fetch. -/
theorem test_fetch_out_of_bounds :
    after (.step 0 0) ({ start [] with pc := 0xFFF }.load 0xFFF [0x80]) (faulted 4 0x0FFF 0x1000) = true ∧
    after (.step 0 0) { start [] with pc := 0x10FE } (faulted 4 0x10FE 0x10FE) = true := by decide

/-- T-ALU-40: an illegal word is no neighbour. -/
theorem test_unknownOpcode : runs (start [(0x0, 0x01), (0x1, 0x01)]) 0x8018 (faulted 1 0x0200 0x8018) = true := by decide

/-- T-FLT-5, event 2: a Step in FAULTED is refused and answers the latched fault. -/
theorem test_faulted_refuses : runs { start [] with err := ⟨true, 1, 0x0200, 0x8018⟩ } 0x6001
    (fun t => faulted 1 0x0200 0x8018 t && t.pc == 0x0200 && t.getV 0x0 == 0) = true := by decide

/-- T-RST-1. -/
theorem test_reset_event : after .reset ((lit 1 1 { start [(0x0, 1), (0xF, 16)] with
      i := 0x1234, pc := 0x456, sp := 3, stack := State.reset.stack.set 0 0x222, dt := 9, st := 8, waiting := true,
      keyPrev := 0xFFFF }).load 0x300 [0x55])
    (fun t => t == { State.reset with mem := [(0x300, 0x55)] }) = true := by decide

/-- The host's placement of a word runs it as the first instruction after reset. -/
theorem test_withFetchWord : (match step (State.reset.withFetchWord 16 0x60FF) with
    | .next t => t.getV 0x0 == 0xFF && t.pc == 0x202
    | .fault _ => false
    | .refused _ => false) = true := by decide

/-- R182, R183 (c): font at FONT_BASE, program at 0x200, a pixel the host put on. -/
theorem test_launch :
    let s := State.launch Config.usualFont [0x12, 0x00] (lit 1 2 State.reset).disp
    Memory.read 0 s.mem = 0xF0 ∧ Memory.read 0x4F s.mem = 0x80 ∧ Memory.read 0x200 s.mem = 0x12 ∧ s.mem.wf = true ∧
    Display.pixel s.disp 1 2 = true ∧ Display.pixel s.disp 0 0 = false ∧ s.pc = 0x200 := by decide


/-! ## Cases that meet the hypotheses of the obligations, one per clause, at the ends of the ranges -/

/-- A loaded machine about to take an event: the words from PC on, the event. -/
def about (s : State) (ws : List Word) (e : Event) : State :=
  { s.load s.pc.toNat (ws.flatMap wordBytes) with events := [e] }

/-- DecodeOfEncodeIsIdentity. -/
theorem witness_wellFormed : (Instr.sys 0xFFF).WellFormed ∧ (Instr.sys 0x0EF).WellFormed ∧
    (Instr.drw 0xF 0xF 0xF).WellFormed ∧ (Instr.shl 0x0 0xF).WellFormed := by decide

/-- EncodeOfDecodeIsIdentity. -/
theorem witness_decodes : decodeWord 0x8AB6 = .ok (.shr 0xA 0xB) ∧ decodeWord 0x0FFF = .ok (.sys 0xFFF) := by decide

/-- DecoderRejectsExactlyTheIllegalWords, both clauses, family by family. -/
theorem witness_illegalWord : illegalWord 0x5001 ∧ illegalWord 0x8AB8 ∧ illegalWord 0x8ABF ∧ illegalWord 0x9CD1 ∧
    illegalWord 0xE19F ∧ illegalWord 0xF9FF ∧ ¬ illegalWord 0x5000 ∧ ¬ illegalWord 0x8ABE ∧ ¬ illegalWord 0x9CD0 ∧
    ¬ illegalWord 0xE19E ∧ ¬ illegalWord 0xF965 ∧ ¬ illegalWord 0x0000 := by
  refine ⟨?_, ?_, ?_, ?_, ?_, ?_, ?_, ?_, ?_, ?_, ?_, ?_⟩ <;> unfold illegalWord <;> decide

/-- DecoderAgreesWithOpcodeTable, the clause about two rows. -/
theorem witness_two_rows : rowOf .cls ∈ opcodeTable ∧ rowOf (.sys 0) ∈ opcodeTable ∧
    (rowOf .cls).selects 0x00E0 = true ∧ (rowOf (.sys 0)).selects 0x00E0 = true ∧ rowOf .cls ≠ rowOf (.sys 0) := by
  decide

/-- StepRunsTheDecodedInstruction, at the highest PC that fetches (T-FLT-3), and at an odd one. -/
theorem witness_stepRuns :
    (let s := about { start [] with pc := 0xFFE } [0x6A55] (.step 0x0008 0xA7)
     s.nextEvent = .step 0x0008 0xA7 ∧ s.err.valid = false ∧ s.pc.toNat ≤ 0x0FFE ∧
     decodeWord (Memory.read s.pc.toNat s.mem ++ Memory.read (s.pc.toNat + 1) s.mem) = .ok (.ldImm 0xA 0x55)) ∧
    (let s := about { start [] with pc := 0x201 } [0xC00F] (.step 0 0xA7)
     s.nextEvent = .step 0 0xA7 ∧ s.err.valid = false ∧ s.pc.toNat ≤ 0x0FFE ∧
     decodeWord (Memory.read s.pc.toNat s.mem ++ Memory.read (s.pc.toNat + 1) s.mem) = .ok (.rnd 0x0 0x0F)) := by
  decide

/-- OutOfBoundsIsTakenBeforeAnyAccess: the lowest PC that does not fetch, and each kind of access one byte too far. -/
theorem witness_outOfBounds :
    (let s := about { start [] with pc := 0xFFF } [] (.step 0 0)
     s.nextEvent = .step 0 0 ∧ s.err.valid = false ∧ s.pc.toNat > 0x0FFE) ∧
    (∀ p ∈ [(Instr.drw 0x0 0x1 0x1, (0x1000 : Word)), (.drw 0x0 0x1 0x2, 0xFFF), (.ldB 0x3, 0xFFE),
        (.storeRegs 0x0, 0x1000), (.storeRegs 0xF, 0xFF1), (.loadRegs 0x1, 0xFFF), (.loadRegs 0xF, 0xFFFF)],
      accessLength p.1 > 0 ∧ ({ start [] with i := p.2 } : State).i.toNat + accessLength p.1 - 1 > 0xFFF) := by
  simp [about, State.nextEvent, accessLength, start, State.reset, State.load, State.setMem, Err.clear]

/-- UnknownWordFaults (T-FLT-5). -/
theorem witness_unknownWord :
    let s := about (start []) [0x8018] (.step 0 0)
    s.nextEvent = .step 0 0 ∧ s.err.valid = false ∧ s.pc.toNat ≤ 0x0FFE ∧
    (0x8018 : Word) = Memory.read s.pc.toNat s.mem ++ Memory.read (s.pc.toNat + 1) s.mem ∧
    decodeWord 0x8018 = .error (.unknownOpcode 0x8018) := by decide

/-- The machine goes from `s` in one event to a state with `p`. -/
def reaches (s : State) (p : State → Bool) : Bool :=
  match step s with
  | .next t => p t
  | .fault _ => false
  | .refused _ => false

/-- What `reaches` says. -/
theorem exists_of_reaches {s : State} {p : State → Bool} (h : reaches s p = true) : ∃ t, step s = .next t ∧ p t = true := by
  unfold reaches at h
  split at h
  · exact ⟨_, by assumption, h⟩
  · cases h
  · cases h

/-- FaultingStepCommitsNothing and EveryFaultHasItsCause: each of the four codes, fetch and data access apart. -/
theorem witness_faultingSteps :
    (∃ t, step (about { start [] with pc := 0x10FE } [] (.step 0 0)) = .next t ∧ t.err.valid = true) ∧
    (∃ t, step (about (start []) [0x512F] (.step 0 0)) = .next t ∧ t.err.valid = true) ∧
    (∃ t, step (about (start []) [0x00EE] (.step 0 0)) = .next t ∧ t.err.valid = true) ∧
    (∃ t, step (about { start [] with sp := 16 } [0x2300] (.step 0 0)) = .next t ∧ t.err.valid = true) ∧
    (∃ t, step (about { start [] with i := 0xFFE } [0xF333] (.step 0 0)) = .next t ∧ t.err.valid = true) :=
  ⟨exists_of_reaches (by decide), exists_of_reaches (by decide), exists_of_reaches (by decide),
    exists_of_reaches (by decide), exists_of_reaches (by decide)⟩

/-- FAULTED with timers running (T-FLT-5). -/
def faultedState : State := { start [] with dt := 2, err := ⟨true, 1, 0x0200, 0x8018⟩, status := .fault 1 0x0200 0x8018 }

/-- FaultedRefusesEveryStep. -/
theorem witness_faulted_step :
    ({ faultedState with events := [.step 0 0] } : State).nextEvent = .step 0 0 ∧ faultedState.err.valid = true := by
  decide

/-- OnlyResetLeavesFaulted: a Step, a Tick and a Step with free inputs, from FAULTED. -/
theorem witness_faulted_run :
    faultedState.err.valid = true ∧ (∀ e ∈ [Event.step 0 0, Event.tick], e ≠ .reset) ∧
    ∃ t, Host.Core.run core 3 { faultedState with events := [.step 0 0, .tick] } = .next t :=
  ⟨by decide, by decide, _, rfl⟩

/-- TickDecrementsBothTimers: in WAIT_KEY with one timer at 0. -/
theorem witness_tick : ({ start [] with dt := 1, waiting := true, events := [.tick] } : State).nextEvent = .tick := by
  decide

/-- TimerReachesZeroAfterItsTicks: two Ticks from DT = 2 and ST = 0. -/
theorem witness_ticks :
    ({ start [] with dt := 2, events := [.tick, .tick, .reset] } : State).events = List.replicate 2 .tick ++ [.reset] ∧
    ∃ t, Host.Core.run core 2 { start [] with dt := 2, events := [.tick, .tick, .reset] } = .next t :=
  ⟨by decide, _, rfl⟩

/-- ResetEventRestoresResetValues: from FAULTED. -/
theorem witness_reset : ({ faultedState with events := [.reset] } : State).nextEvent = .reset := by decide

/-- RetPopsThePC: the lowest and the highest depth, and the empty stack. -/
theorem witness_ret : ({ start [] with sp := 1 } : State).sp.val = 0 + 1 ∧ (0 < 16) ∧
    ({ start [] with sp := 16 } : State).sp.val = 15 + 1 ∧ (15 < 16) ∧ (start []).sp.val = 0 := by decide

/-- CallPushesTheReturnAddress: the empty stack, one free entry, the full stack. -/
theorem witness_call : (start []).sp.val = 0 ∧ ({ start [] with sp := 15 } : State).sp.val = 15 ∧
    ({ start [] with sp := 16 } : State).sp.val = 16 := by decide

/-- RetUndoesCall: a CALL with one free entry, the RET run by a state that differs elsewhere. -/
theorem witness_retUndoesCall : ({ start [] with sp := 15 } : State).sp.val < 16 ∧
    ∃ t, exec (.call 0x300) { start [] with sp := 15 } = .next t ∧
      ({ t with i := 0x123, dt := 4 } : State).stack = t.stack ∧ ({ t with i := 0x123, dt := 4 } : State).sp = t.sp :=
  ⟨by decide, _, rfl, rfl, rfl⟩

/-- BcdStoresThreeDigits: the highest I that stores and the lowest that does not (T-IDX-12, T-IDX-13). -/
theorem witness_bcd : (start []).mem.wf = true ∧ ({ start [] with i := 0xFFD } : State).i.toNat + 2 ≤ 0xFFF ∧
    ({ start [] with i := 0xFFE } : State).i.toNat + 2 > 0xFFF := by decide

/-- BlockStoreWritesV0ToVx and BlockLoadReadsV0ToVx: sixteen registers at the end of memory, one too far, one register
at the last byte (T-IDX-16 to T-IDX-18). -/
theorem witness_block : (start []).mem.wf = true ∧
    ({ start [] with i := 0xFF0 } : State).i.toNat + (0xF : Reg).toNat ≤ 0xFFF ∧
    ({ start [] with i := 0xFF1 } : State).i.toNat + (0xF : Reg).toNat > 0xFFF ∧
    ({ start [] with i := 0xFFF } : State).i.toNat + (0x0 : Reg).toNat ≤ 0xFFF := by decide

/-- BlockLoadUndoesBlockStore and StoredBytesAreFetchedAtOnce: a store of two registers and a state that shares its
memory and I. -/
theorem witness_storeThenLoad : (start []).mem.wf = true ∧
    ({ start [(0x0, 0x12), (0x1, 0x34)] with i := 0xFFE } : State).i.toNat + (0x1 : Reg).toNat ≤ 0xFFF ∧
    (0 < (0x1 : Reg).toNat) ∧
    ∃ t, exec (.storeRegs 0x1) { start [(0x0, 0x12), (0x1, 0x34)] with i := 0xFFE } = .next t ∧
      ({ t with v := State.reset.v, pc := 0x400 } : State).mem = t.mem ∧
      ({ t with v := State.reset.v, pc := 0x400 } : State).i = t.i :=
  ⟨by decide, by decide, by decide, _, rfl, rfl, rfl⟩

/-- DrwInvertsExactlyTheSpritePixels: no row with I anywhere, one row at the last byte, two rows there. -/
theorem witness_drw : (0x0 : BitVec 4).toNat = 0 ∧
    ({ start [] with i := 0xFFF } : State).i.toNat + (0x1 : BitVec 4).toNat - 1 ≤ 0xFFF ∧ (0x2 : BitVec 4).toNat > 0 ∧
    ({ start [] with i := 0xFFF } : State).i.toNat + (0x2 : BitVec 4).toNat - 1 > 0xFFF := by decide

/-- DrwInvertsExactlyTheSpritePixels: a pixel the sprite covers and one it does not, on either side of the right edge. -/
theorem witness_spriteCovers :
    spriteCovers ({ start [(0x0, 0x3E), (0x1, 0x1F)] with i := 0x20C }.load 0x20C [0xF0, 0x81]) 0x0 0x1 2 0 5 ∧
    ¬ spriteCovers ({ start [(0x0, 0x3E), (0x1, 0x1F)] with i := 0x20C }.load 0x20C [0xF0, 0x81]) 0x0 0x1 2 0 63 := by
  unfold spriteCovers; decide

/-- DrawingTwiceRestoresTheDisplay. -/
theorem witness_drawTwice : (0x0 : Reg) ≠ 0xF ∧ (0x1 : Reg) ≠ 0xF ∧
    ({ start [] with i := 0x300 } : State).i.toNat + (0x1 : BitVec 4).toNat - 1 ≤ 0xFFF ∧
    ∃ t u, exec (.drw 0x0 0x1 0x1) ({ start [] with i := 0x300 }.load 0x300 [0x80]) = .next t ∧
      exec (.drw 0x0 0x1 0x1) t = .next u :=
  ⟨by decide, by decide, by decide, _, _, rfl, rfl⟩

/-- WaitForKeyEndsOnTheLowestNewKey, first clause: key F alone, and key 6 below 8 and F (T-KEY-12). -/
theorem witness_wait_ends :
    (let s : State := { start [] with waiting := true, keys := 0x8000, keyPrev := 0x7FFF }
     s.waiting = true ∧ s.keys.getLsbD 15 = true ∧ s.keyPrev.getLsbD 15 = false ∧
     ∀ j < 15, ¬ (s.keys.getLsbD j = true ∧ s.keyPrev.getLsbD j = false)) ∧
    (let s : State := { start [] with waiting := true, keys := 0x8140 }
     s.waiting = true ∧ s.keys.getLsbD 6 = true ∧ s.keyPrev.getLsbD 6 = false ∧
     ∀ j < 6, ¬ (s.keys.getLsbD j = true ∧ s.keyPrev.getLsbD j = false)) := by decide

/-- WaitForKeyEndsOnTheLowestNewKey, second clause: the first Step of a wait, and a later one with every key held
(T-KEY-13, T-KEY-11). -/
theorem witness_wait_goes_on :
    ((start []).waiting = true → ∀ k < 16, ¬ ((start []).keys.getLsbD k = true ∧ (start []).keyPrev.getLsbD k = false)) ∧
    (let s : State := { start [] with waiting := true, keys := 0xFFFF, keyPrev := 0xFFFF }
     s.waiting = true → ∀ k < 16, ¬ (s.keys.getLsbD k = true ∧ s.keyPrev.getLsbD k = false)) := by decide

/-- InstructionsWriteOnlyTheirDestinations: V3 beside a load of V0 to V2, and V0 beside a DRW. -/
theorem witness_destinations :
    (∃ t, exec (.loadRegs 0x2) (start []) = .next t) ∧ (0x3 : Reg) ∉ dataDests (.loadRegs 0x2) ∧
    (∃ t, exec (.drw 0x0 0x1 0x5) (start []) = .next t) ∧ (0x0 : Reg) ∉ dataDests (.drw 0x0 0x1 0x5) ∧
    (writesFlag (.drw 0x0 0x1 0x5) = true → (0x0 : Reg) ≠ 0xF) :=
  ⟨⟨_, rfl⟩, by decide, ⟨_, rfl⟩, by decide, by decide⟩

/-- OnlyThreeInstructionsWriteI. -/
theorem witness_writesI : ∃ t, exec (.ldI 0x300) (start []) = .next t ∧ t.i ≠ (start []).i :=
  ⟨_, rfl, by decide⟩

/-- OnlyTimerInstructionsWriteTimers. -/
theorem witness_writesTimers :
    (∃ t, exec (.ldDTVx 0x0) (start [(0x0, 3)]) = .next t ∧ t.dt ≠ (start [(0x0, 3)]).dt) ∧
    (∃ t, exec (.ldSTVx 0x0) (start [(0x0, 3)]) = .next t ∧ t.st ≠ (start [(0x0, 3)]).st) :=
  ⟨⟨_, rfl, by decide⟩, ⟨_, rfl, by decide⟩⟩

/-- OnlyStoresWriteMemory: the last byte of memory. -/
theorem witness_writesMemory :
    ∃ t, exec (.storeRegs 0x0) { start [(0x0, 0x5A)] with i := 0xFFF } = .next t ∧
      Memory.read 0xFFF t.mem ≠ Memory.read 0xFFF ({ start [(0x0, 0x5A)] with i := 0xFFF } : State).mem :=
  ⟨_, rfl, by decide⟩

/-- OnlyClsAndDrwChangePixels. -/
theorem witness_changesPixels : ∃ t, exec .cls (lit 0 0 (start [])) = .next t ∧ t.disp ≠ (lit 0 0 (start [])).disp := by
  refine ⟨_, rfl, fun h => ?_⟩
  have := congrArg (fun d => Display.pixel d 0 0) h
  revert this
  decide

/-- OnlyCallAndRetUseTheStack. -/
theorem witness_usesStack : ∃ t, exec (.call 0x300) (start []) = .next t ∧
    (t.sp ≠ (start []).sp ∨ t.stack ≠ (start []).stack) :=
  ⟨_, rfl, by decide⟩

/-- WaitingFollowsTheAnswer: one instruction for each of its three cases. -/
theorem witness_answers : (∃ t, exec (.ldVxK 0x0) (start []) = .next t) ∧ (∃ t, exec (.jp 0x200) (start []) = .next t) ∧
    (∃ t, exec .ret (start []) = .next t) :=
  ⟨⟨_, rfl⟩, ⟨_, rfl⟩, ⟨_, rfl⟩⟩

/-- InputsReachOnlyTheirReaders and TickCommutesWithTimerFreeInstructions. -/
theorem witness_classes : readsKeys (.rnd 0x0 0xFF) = false ∧ readsRnd (.skp 0x0) = false ∧
    usesTimers (.ldVxK 0x0) = false ∧ (∃ t, exec (.rnd 0x0 0xFF) (start []) = .next t) ∧
    (∃ t, exec (.skp 0x0) (start []) = .next t) ∧ (∃ t, exec (.ldVxK 0x0) (start []) = .next t) :=
  ⟨by decide, by decide, by decide, ⟨_, rfl⟩, ⟨_, rfl⟩, ⟨_, rfl⟩⟩

/-- DeadStackEntriesAreNeverRead: entry 1 differs and one entry is live. -/
theorem witness_deadStack :
    (∀ (k : Nat) (h : k < 16), k < ({ start [] with sp := 1 } : State).sp.val →
      (State.reset.stack.set 1 0x222)[k] = ({ start [] with sp := 1 } : State).stack[k]) ∧
    ∃ t, exec .ret { start [] with sp := 1 } = .next t := by
  refine ⟨fun k h hk => ?_, _, rfl⟩
  have : k = 0 := by simp at hk; omega
  subst this
  rfl

/-- A machine in a wait, one live stack entry, a Step pending. -/
def waitingState : State :=
  about { start [] with pc := 0x300, sp := 1, stack := State.reset.stack.set 0 0x202, waiting := true,
                        status := .waiting } [0xF20A] (.step 0x0020 0)

/-- EveryStepKeepsTheInvariant: WAITING, a live stack entry, memory in use. -/
theorem witness_inv_waiting : Inv waitingState ∧ ∃ t, step waitingState = .next t := by
  refine ⟨⟨by decide, by unfold pcBounded; decide, fun k h hk => ?_, ⟨fun _ => by decide, fun h => ?_⟩,
    ⟨by decide, fun _ => ⟨0x2, by decide⟩⟩⟩, _, rfl⟩
  · have : k = 0 := by
      have : waitingState.sp.val = 1 := by decide
      omega
    subst this
    exact show 2 ≤ (0x202#16).toNat ∧ (0x202#16).toNat ≤ 0x1000 by decide
  · revert h
    decide

/-- EveryStepKeepsTheInvariant: FAULTED. -/
theorem witness_inv_faulted : Inv faultedState ∧ ∃ t, step faultedState = .next t := by
  refine ⟨⟨by decide, by unfold pcBounded; decide, fun k h hk => ?_, ⟨fun h => ?_, fun _ => by decide⟩,
    ⟨by decide, fun h => ?_⟩⟩, _, rfl⟩
  · have : faultedState.sp.val = 0 := by decide
    omega
  · revert h
    decide
  · revert h
    decide

end Sys2Proof.Tests
end

section
/-! Every event of the driver is answered (spec/00_scope.md R5): a Step, then any event, then one step. -/

namespace Sys2Proof.Machine

/-- A Step answers in each of its three ways of going on (R15): refused, a fault of fetch or decode, an instruction. -/
theorem stepEvent_answers (s : State) : ∃ t, s.stepEvent = .next t := by
  unfold State.stepEvent
  split
  case isTrue _ => exact ⟨s.refuseStep, rfl⟩
  case isFalse _ =>
    split
    case h_1 f _ => exact ⟨s.raise f, rfl⟩
    case h_2 i _ => exact exec_answers i s

theorem perform_answers (e : Event) (s : State) : ∃ t, s.perform e = .next t := by
  cases e with
  | reset => exact ⟨s.resetEvent, rfl⟩
  | step keys rnd => exact stepEvent_answers (s.present keys rnd)
  | tick => exact ⟨s.tickEvent, rfl⟩

/-- Settles O56: whatever the driver's next event is, performing it answers a next state. -/
theorem everyEventIsAnswered : Obligations.EveryEventIsAnswered :=
  fun s => perform_answers s.nextEvent s.dropEvent

end Sys2Proof.Machine
end

section
/-! What an instruction can do, said once for the rules of the whole machine (spec/10_state.md): where it goes, what it
wrote when it completed, how it ended. -/

namespace Sys2Proof.Machine

open Sys2Proof.Safety

/-! ### where an instruction that completes goes -/

/-- What a completing instruction may write to PC (R14, R16): sequence, skip, jump, or a live return address. -/
inductive Target (s : State) : Word → Prop
  | next : Target s s.npc
  | skip : Target s (s.npc + 2)
  | jump (nnn : Addr) : Target s (zextAddr nnn)
  | offset (nnn : Addr) (b : Byte) : Target s (zextAddr nnn + zextByte b)
  | entry (k : Nat) (hk : k < 16) (live : k < s.sp.val) : Target s s.stack[k]

theorem Target.skipTarget (s : State) (c : Bool) : Target s (s.skipTarget c) := by
  cases c
  · exact .next
  · exact .skip

theorem State.npc_toNat {s : State} (hp : s.pc.toNat ≤ 0xFFE) : s.npc.toNat = s.pc.toNat + 2 := by
  unfold State.npc
  bv_omega

/-- R16: from a PC that can be fetched, the greatest target is that of JP V0. -/
theorem Target.toNat_le {s : State} {p : Word} (h : Target s p) (hp : s.pc.toNat ≤ 0xFFE)
    (hs : stackHoldsReturns s) : p.toNat ≤ 0x10FE := by
  have hnpc := State.npc_toNat hp
  cases h with
  | next => omega
  | skip => bv_omega
  | jump nnn =>
    have := nnn.isLt
    simp only [zextAddr, BitVec.toNat_setWidth]
    omega
  | offset nnn b =>
    have := nnn.isLt
    have := b.isLt
    simp only [zextAddr, zextByte, BitVec.toNat_add, BitVec.toNat_setWidth]
    omega
  | entry k hk live =>
    have := (hs k hk live).2
    omega

/-! ### what an instruction wrote when it completed -/

/-- The register file `v` differs from that of `s` only where the instruction may write (R10 to R12). -/
def writesOnlyDests (i : Instr) (s : State) (v : Vector Byte 16) : Prop :=
  ∀ r, r ∉ dataDests i → (writesFlag i = true → r ≠ vf) → ({ s with v := v } : State).getV r = s.getV r

theorem writesOnlyDests_setV {i : Instr} {x : Reg} (hx : x ∈ dataDests i) (s : State) (b : Byte) :
    writesOnlyDests i s (s.setV x b).v := by
  intro r hr _
  have hne : r ≠ x := fun e => hr (e ▸ hx)
  exact s.getV_setV_ne b hne

theorem writesOnlyDests_setFlag {i : Instr} (hf : writesFlag i = true) (s : State) (f : Bool) :
    writesOnlyDests i s (s.setFlag f).v :=
  fun _ _ hvf => s.getV_setV_ne _ (hvf hf)

theorem writesOnlyDests_writeFlagged {i : Instr} {x : Reg} (hx : x ∈ dataDests i) (hf : writesFlag i = true)
    (s : State) (f : Bool) (b : Byte) : writesOnlyDests i s (s.writeFlagged f x b).v := by
  intro r hr hvf
  have hne : r ≠ x := fun e => hr (e ▸ hx)
  exact (s.getV_writeFlagged f x r b).trans (by rw [if_neg hne, if_neg (hvf hf)])

/-- V0 to Vx are the data destinations of LD Vx, [I]. -/
theorem mem_dataDests_loadRegs {x r : Reg} (h : r.toNat ≤ x.toNat) : r ∈ dataDests (.loadRegs x) :=
  List.mem_map.2 ⟨r.toNat, List.mem_range.2 (by omega), by simp⟩

theorem writesOnlyDests_loadBlock (x : Reg) (s : State) (p : Nat) :
    writesOnlyDests (.loadRegs x) s (State.loadBlock p (x.toNat + 1) s).v := by
  intro r hr _
  have hgt : ¬ r.toNat < x.toNat + 1 := fun h => hr (mem_dataDests_loadRegs (by omega))
  have hx := x.isLt
  exact (s.loadBlock_getV p (x.toNat + 1) (by omega) r).trans (if_neg hgt)

/-- `Wrote i s u`: a completing `i` turned `s` into `u` before the Step ended. One constructor for each kind of state an
instruction can write (R10 to R23); what a constructor does not name is unchanged. -/
inductive Wrote (i : Instr) (s : State) : State → Prop
  | nothing : Wrote i s s
  | regs (v : Vector Byte 16) (hv : writesOnlyDests i s v) : Wrote i s { s with v := v }
  | index (w : Word) (hi : (∃ nnn, i = .ldI nnn) ∨ (∃ x, i = .addI x) ∨ (∃ x, i = .ldF x)) :
      Wrote i s (s.setI w)
  | delay (x : Reg) (b : Byte) (hi : i = .ldDTVx x) : Wrote i s (s.setDT b)
  | sound (x : Reg) (b : Byte) (hi : i = .ldSTVx x) : Wrote i s (s.setST b)
  | bytes (bs : List Byte) (hi : (∃ x, i = .ldB x) ∨ (∃ x, i = .storeRegs x)) (hlen : bs.length = accessLength i)
      (inside : s.i.toNat + bs.length ≤ Config.memSize) :
      Wrote i s (s.setMem (Memory.writeBytes s.i.toNat bs s.mem))
  | picture (d : Display) (v : Vector Byte 16) (hi : i = .cls ∨ ∃ x y n, i = .drw x y n)
      (hv : writesOnlyDests i s v) : Wrote i s { s with v := v, disp := d }
  | push (nnn : Addr) (hi : i = .call nnn) (h : s.sp.val < 16) :
      Wrote i s { s with stack := s.stack.set s.sp.val s.npc h, sp := ⟨s.sp.val + 1, by omega⟩ }
  | pop (hi : i = .ret) (h : 0 < s.sp.val) : Wrote i s { s with sp := ⟨s.sp.val - 1, by omega⟩ }

theorem Wrote.setV {i : Instr} {x : Reg} (hx : x ∈ dataDests i) (s : State) (b : Byte) : Wrote i s (s.setV x b) :=
  .regs _ (writesOnlyDests_setV hx s b)

theorem Wrote.writeFlagged {i : Instr} {x : Reg} (hx : x ∈ dataDests i) (hf : writesFlag i = true) (s : State)
    (f : Bool) (b : Byte) : Wrote i s (s.writeFlagged f x b) :=
  .regs _ (writesOnlyDests_writeFlagged hx hf s f b)

theorem Wrote.loadBlock (x : Reg) (s : State) (p : Nat) :
    Wrote (.loadRegs x) s (State.loadBlock p (x.toNat + 1) s) := by
  rw [State.loadBlock_eq]
  exact .regs _ (writesOnlyDests_loadBlock x s p)

section
variable {i : Instr} {s u : State}

theorem Wrote.err_eq (h : Wrote i s u) : u.err = s.err := by cases h <;> rfl

theorem Wrote.keyPrev_eq (h : Wrote i s u) : u.keyPrev = s.keyPrev := by cases h <;> rfl

/-- R49: the bytes a store writes are inside the address space, so the canonical form stays. -/
theorem Wrote.mem_wf (h : Wrote i s u) (hm : s.mem.wf = true) : u.mem.wf = true := by
  cases h
  case bytes bs _ _ inside => exact Memory.wf_writeBytes hm inside
  all_goals exact hm

/-- R17: a push from a PC that can be fetched leaves an address between 2 and 0x1000. -/
theorem Wrote.stackHoldsReturns (h : Wrote i s u) (hp : s.pc.toNat ≤ 0xFFE) (hs : stackHoldsReturns s) :
    stackHoldsReturns u := by
  cases h
  case push nnn _ h =>
    intro k hk live
    simp only [Vector.getElem_set]
    split
    · have := State.npc_toNat hp
      omega
    · exact hs k hk (by simp only at live; omega)
  case pop h =>
    intro k hk live
    exact hs k hk (by simp only at live; omega)
  all_goals exact hs

end

/-! ### how an instruction ends -/

/-- The three ends of an instruction (R15, R134, R157). Only LD Vx, K waits, and it takes no fault. -/
inductive Ends (i : Instr) (s : State) : State → Prop
  | fault (f : CoreFault) (hi : ∀ x, i ≠ .ldVxK x) : Ends i s (s.raise f)
  | wait (x : Reg) (hi : i = .ldVxK x) : Ends i s s.keepWaiting
  | done {p : Word} {u : State} (target : Target s p) (wrote : Wrote i s u) : Ends i s (u.retire p)

/-- An instruction with a guarded access ends as the access inside memory does, or takes the fault (R46). -/
theorem Ends.guardRange {i : Instr} {s k : State} (a : Word) (len : Nat) (hi : ∀ x, i ≠ .ldVxK x)
    (inside : len = 0 ∨ a.toNat + len - 1 ≤ 0xFFF → Ends i s k) : Ends i s (s.guardRange a len k) := by
  rcases s.guardRange_cases a len k with ⟨h, hk⟩ | ⟨_, _, hf⟩
  · rw [hk]
    exact inside h
  · rw [hf]
    exact .fault _ hi

/-- The one case analysis over the instructions that the rules of the whole machine rest on. -/
theorem exec_ends {i : Instr} {s t : State} (h : exec i s = .next t) : Ends i s t := by
  cases i
  case cls =>
    cases h
    exact .done .next (.picture _ _ (.inl rfl) fun _ _ _ => rfl)
  case ret =>
    cases h
    rcases s.popAndJump_cases with ⟨hs, h⟩ | ⟨_, h⟩
    · exact h ▸ .done (.entry _ _ (by omega)) (.pop rfl hs)
    · exact h ▸ .fault _ nofun
  case call nnn =>
    cases h
    rcases s.pushAndJump_cases s.npc (zextAddr nnn) with ⟨hs, h⟩ | ⟨_, h⟩
    · exact h ▸ .done (.jump nnn) (.push nnn rfl hs)
    · exact h ▸ .fault _ nofun
  case drw x y n =>
    cases h
    exact .guardRange _ _ nofun fun _ =>
      .done .next (.picture _ _ (.inr ⟨x, y, n, rfl⟩) (writesOnlyDests_setFlag rfl s _))
  case ldB x =>
    cases h
    exact .guardRange _ _ nofun fun h =>
      .done .next (.bytes (bcdDigits (s.getV x)) (.inl ⟨x, rfl⟩) rfl (show s.i.toNat + 3 ≤ 4096 by omega))
  case storeRegs x =>
    cases h
    refine .guardRange _ _ nofun fun h =>
      .done .next (.bytes (s.blockBytes x) (.inr ⟨x, rfl⟩) (s.blockBytes_length x) ?_)
    rw [s.blockBytes_length x]
    exact show _ ≤ 4096 by omega
  case loadRegs x =>
    cases h
    exact .guardRange _ _ nofun fun _ => .done .next (.loadBlock x s _)
  case ldVxK x =>
    simp only [exec, execLdVxK] at h
    split at h
    · split at h
      · cases h
        exact .done .next (.setV (by simp [dataDests]) s _)
      · cases h
        exact .wait x rfl
    · cases h
      exact .wait x rfl
  case jp nnn => cases h; exact .done (.jump nnn) .nothing
  case jpV0 nnn => cases h; exact .done (.offset nnn _) .nothing
  case sys => cases h; exact .done .next .nothing
  case seImm | sneImm | seReg | sneReg | skp | sknp => cases h; exact .done (.skipTarget s _) .nothing
  case ldI nnn => cases h; exact .done .next (.index _ (.inl ⟨nnn, rfl⟩))
  case addI x => cases h; exact .done .next (.index _ (.inr (.inl ⟨x, rfl⟩)))
  case ldF x => cases h; exact .done .next (.index _ (.inr (.inr ⟨x, rfl⟩)))
  case ldDTVx x => cases h; exact .done .next (.delay x _ rfl)
  case ldSTVx x => cases h; exact .done .next (.sound x _ rfl)
  case addReg | sub | subn | shr | shl =>
    cases h
    exact .done .next (.writeFlagged (by simp [dataDests]) rfl s _ _)
  case ldImm | addImm | ldReg | orReg | andReg | xorReg | rnd | ldVxDT =>
    cases h
    exact .done .next (.setV (by simp [dataDests]) s _)

end Sys2Proof.Machine
end

section
/-! The invariant of the machine (spec/10_state.md R16, R17, R19 to R21): Reset sets it up, every event keeps it. -/

namespace Sys2Proof.Machine

open Sys2Proof.Safety

/-! ### the events that touch no field the invariant reads, and Reset -/

/-- The invariant reads memory, PC, the stack, ERR, WAITING and the status, and nothing else. -/
theorem inv_congr {s t : State} (hs : Inv s) (hmem : t.mem = s.mem) (hpc : t.pc = s.pc) (hstack : t.stack = s.stack)
    (hsp : t.sp = s.sp) (herr : t.err = s.err) (hwaiting : t.waiting = s.waiting) (hstatus : t.status = s.status) :
    Inv t where
  mem := hmem ▸ hs.mem
  pc := by
    unfold pcBounded
    exact hpc ▸ hs.pc
  stack := by
    unfold stackHoldsReturns
    rw [hstack, hsp]
    exact hs.stack
  err := by
    unfold errConsistent
    rw [herr, hpc, hstatus]
    exact hs.err
  wait := by
    unfold waitConsistent
    rw [hwaiting, hstatus, fetchDecode_congr hpc hmem]
    exact hs.wait

theorem inv_dropEvent {s : State} (hs : Inv s) : Inv s.dropEvent :=
  inv_congr hs s.dropEvent_mem s.dropEvent_pc s.dropEvent_stack s.dropEvent_sp s.dropEvent_err s.dropEvent_waiting
    s.dropEvent_status

theorem inv_present {s : State} (hs : Inv s) (k : Keys) (b : Byte) : Inv (s.present k b) :=
  inv_congr hs rfl rfl rfl rfl rfl rfl rfl

theorem inv_tickEvent {s : State} (hs : Inv s) : Inv s.tickEvent := inv_congr hs rfl rfl rfl rfl rfl rfl rfl

/-- R159: the refused Step answers what the status says already. -/
theorem inv_refuseStep {s : State} (hs : Inv s) (hv : s.err.valid = true) : Inv s.refuseStep := by
  obtain ⟨_, _, _, hstatus⟩ := hs.err.2 hv
  exact inv_congr hs rfl rfl rfl rfl rfl rfl hstatus.symm

/-- With ERR clear, any answer but a fault is consistent with it (R20). -/
theorem errConsistent_of_clear {s : State} (herr : s.err = Err.clear) (h : s.status = .ok ∨ s.status = .waiting) :
    errConsistent s :=
  ⟨fun _ => ⟨herr, h⟩, fun hv => by simp [herr, Err.clear] at hv⟩

/-- R28: after Reset the stack is empty, no fault is latched and nothing waits; memory is as it was. -/
theorem inv_resetEvent {s : State} (hm : s.mem.wf = true) : Inv s.resetEvent where
  mem := hm
  pc := show (0x200 : Nat) ≤ 0x10FE by decide
  stack := fun k _ live => absurd live (Nat.not_lt_zero k)
  err := errConsistent_of_clear rfl (.inl rfl)
  wait := ⟨by simp [State.reset], nofun⟩

/-- Settles O54: the machine right after reset is its own Reset event, with no byte listed. -/
theorem resetMeetsTheInvariant : Obligations.ResetMeetsTheInvariant :=
  inv_resetEvent (s := State.reset) Memory.wf_nil

/-! ### the Step event -/

theorem coreFault_code_bounds (f : CoreFault) : 1 ≤ f.code.toNat ∧ f.code.toNat ≤ 4 := by
  cases f <;> simp [CoreFault.code]

/-- A wait is on an LD Vx, K (R19), so a core that can fault waits for no key. -/
theorem waiting_eq_false {s : State} (hs : Inv s) (hf : ∀ x, s.fetchDecode ≠ .ok (.ldVxK x)) :
    s.waiting = false := by
  by_contra hw
  obtain ⟨x, hx⟩ := hs.wait.2 (by simpa using hw)
  exact hf x hx

/-- R157: a fault is answered with the record it latches, PC still on its instruction. -/
theorem inv_raise {s : State} (hs : Inv s) (hw : s.waiting = false) (f : CoreFault) : Inv (s.raise f) where
  mem := hs.mem
  pc := hs.pc
  stack := hs.stack
  err := by
    obtain ⟨hlo, hhi⟩ := coreFault_code_bounds f
    exact ⟨nofun, fun _ => ⟨hlo, hhi, rfl, rfl⟩⟩
  wait := by simp [waitConsistent, hw]

/-- R134: a kept wait leaves PC on the LD Vx, K and memory as it was. -/
theorem inv_keepWaiting {s : State} (hs : Inv s) (hv : s.err.valid = false) {x : Reg}
    (hx : s.fetchDecode = .ok (.ldVxK x)) : Inv s.keepWaiting where
  mem := hs.mem
  pc := hs.pc
  stack := hs.stack
  err := errConsistent_of_clear (hs.err.1 hv).1 (.inr rfl)
  wait := ⟨by simp, fun _ => ⟨x, hx⟩⟩

/-- R15: a completed instruction leaves no fault and no wait, PC at its target. -/
theorem inv_retire {i : Instr} {s u : State} {p : Word} (hs : Inv s) (hv : s.err.valid = false)
    (hp : s.pc.toNat ≤ 0xFFE) (target : Target s p) (wrote : Wrote i s u) : Inv (u.retire p) where
  mem := wrote.mem_wf hs.mem
  pc := target.toNat_le hp hs.stack
  stack := wrote.stackHoldsReturns hp hs.stack
  err := errConsistent_of_clear (wrote.err_eq.trans (hs.err.1 hv).1) (.inl rfl)
  wait := ⟨by simp, nofun⟩

theorem inv_exec {i : Instr} {s t : State} (hs : Inv s) (hv : s.err.valid = false) (hi : s.fetchDecode = .ok i)
    (h : exec i s = .next t) : Inv t := by
  cases exec_ends h with
  | fault f hne =>
    have hw : s.waiting = false := waiting_eq_false hs fun x hx => hne x (by simpa [hi] using hx)
    exact inv_raise hs hw f
  | wait x hx => exact inv_keepWaiting hs hv (hx ▸ hi)
  | done target wrote =>
    rcases fetchDecode_cases s with ⟨_, he⟩ | ⟨_, _, he⟩ | ⟨_, hp, _, _⟩
    · simp [hi] at he
    · simp [hi] at he
    · exact inv_retire hs hv hp target wrote

theorem inv_stepEvent {s t : State} (hs : Inv s) (h : s.stepEvent = .next t) : Inv t := by
  rcases stepEvent_cases h with ⟨hv, rfl⟩ | ⟨_, f, hf, rfl⟩ | ⟨hv, i, hi, h⟩
  · exact inv_refuseStep hs hv
  · exact inv_raise hs (waiting_eq_false hs (by simp [hf])) f
  · exact inv_exec hs hv hi h

/-- Settles O55, event by event: Reset sets the invariant up again, Tick touches nothing it reads, and a Step is
refused, faults, waits or completes. -/
theorem everyStepKeepsTheInvariant : Obligations.EveryStepKeepsTheInvariant := by
  intro s t hs h
  have hd := inv_dropEvent hs
  rcases step_cases h with ⟨_, rfl⟩ | ⟨_, rfl⟩ | ⟨k, b, _, h⟩
  · exact inv_resetEvent hd.mem
  · exact inv_tickEvent hd
  · exact inv_stepEvent (inv_present hd k b) h

end Sys2Proof.Machine
end

section
/-! What an instruction may change (spec/10_state.md R10 to R23), each rule read off the ends of an instruction. -/

namespace Sys2Proof.Machine

open Sys2Proof.Safety

/-- Settles O44: registers are written by a completing instruction only, and there within its destinations. -/
theorem instructionsWriteOnlyTheirDestinations : Obligations.InstructionsWriteOnlyTheirDestinations := by
  intro i s t r h hr hvf
  cases exec_ends h with
  | fault => rfl
  | wait => rfl
  | done target wrote =>
    cases wrote
    case regs v hv => exact hv r hr hvf
    case picture d v _ hv => exact hv r hr hvf
    all_goals rfl

/-- Settles O45: I is written only where an instruction sets the index register. -/
theorem onlyThreeInstructionsWriteI : Obligations.OnlyThreeInstructionsWriteI := by
  intro i s t h hne
  cases exec_ends h with
  | fault => exact absurd rfl hne
  | wait => exact absurd rfl hne
  | done target wrote =>
    cases wrote
    case index w hi => exact hi
    all_goals exact absurd rfl hne

/-- Settles O46: each timer has one instruction that sets it. -/
theorem onlyTimerInstructionsWriteTimers : Obligations.OnlyTimerInstructionsWriteTimers := by
  intro i s t h
  cases exec_ends h with
  | fault => exact ⟨absurd rfl, absurd rfl⟩
  | wait => exact ⟨absurd rfl, absurd rfl⟩
  | done target wrote =>
    cases wrote
    case delay x b hi => exact ⟨fun _ => ⟨x, hi⟩, absurd rfl⟩
    case sound x b hi => exact ⟨absurd rfl, fun _ => ⟨x, hi⟩⟩
    all_goals exact ⟨absurd rfl, absurd rfl⟩

/-- Settles O47: the bytes of a store lie inside memory, and an address outside them reads as before. -/
theorem onlyStoresWriteMemory : Obligations.OnlyStoresWriteMemory := by
  intro i s t a h hne
  cases exec_ends h with
  | fault => exact absurd rfl hne
  | wait => exact absurd rfl hne
  | done target wrote =>
    cases wrote
    case bytes bs hi hlen inside =>
      have hrange : s.i.toNat ≤ a ∧ a < s.i.toNat + bs.length := by
        by_contra hout
        exact hne (Memory.read_writeBytes_outside (by omega))
      have htop : s.i.toNat + bs.length ≤ 4096 := inside
      exact ⟨hi, hrange.1, hlen ▸ hrange.2, by omega⟩
    all_goals exact absurd rfl hne

/-- Settles O48: the display is written only with a picture, by CLS or DRW. -/
theorem onlyClsAndDrwChangePixels : Obligations.OnlyClsAndDrwChangePixels := by
  intro i s t h hne
  cases exec_ends h with
  | fault => exact absurd rfl hne
  | wait => exact absurd rfl hne
  | done target wrote =>
    cases wrote
    case picture d v hi _ => exact hi
    all_goals exact absurd rfl hne

/-- The two instructions of the stack (R17). -/
def usesStack : Instr → Bool
  | .ret | .call _ => true
  | _ => false

theorem exec_stack_eq {i : Instr} {s t : State} (hi : usesStack i = false) (h : exec i s = .next t) :
    t.sp = s.sp ∧ t.stack = s.stack := by
  cases exec_ends h with
  | fault => exact ⟨rfl, rfl⟩
  | wait => exact ⟨rfl, rfl⟩
  | done target wrote =>
    cases wrote
    case push nnn hcall _ => simp [hcall, usesStack] at hi
    case pop hret _ => simp [hret, usesStack] at hi
    all_goals exact ⟨rfl, rfl⟩

/-- Settles O49: the other 33 instructions leave the stack as it is. -/
theorem onlyCallAndRetUseTheStack : Obligations.OnlyCallAndRetUseTheStack := by
  intro i s t h hne
  cases i
  case ret => exact .inl rfl
  case call nnn => exact .inr ⟨nnn, rfl⟩
  all_goals
    obtain ⟨hsp, hstack⟩ := exec_stack_eq rfl h
    exact absurd hne (by simp [hsp, hstack])

/-- Settles O50: one clause for each end of an instruction. -/
theorem waitingFollowsTheAnswer : Obligations.WaitingFollowsTheAnswer := by
  intro i s t h
  cases exec_ends h with
  | fault => exact .inr (.inr ⟨rfl, rfl, rfl⟩)
  | wait x hi => exact .inl ⟨rfl, ⟨x, hi⟩, rfl, rfl⟩
  | done target wrote => exact .inr (.inl ⟨rfl, rfl, wrote.keyPrev_eq⟩)

end Sys2Proof.Machine
end

section
/-! What an instruction cannot see: the inputs it does not read (spec/10_state.md R24, R25) and the dead entries of the
stack (R17). Replacing them commutes with the instruction. -/

namespace Sys2Proof.Machine

open Sys2Proof.Safety

/-! ### instructions other than CALL and RET -/

/-- The inputs and the stack storage replaced. -/
def State.overlay (k : Keys) (b : Byte) (w : Vector Word 16) (s : State) : State :=
  { s with keys := k, rnd := b, stack := w }

section
variable (k : Keys) (b : Byte) (w : Vector Word 16) (s : State)

theorem State.guardRange_overlay (a : Word) (len : Nat) {u u' : State} (hu : u' = u.overlay k b w) :
    (s.overlay k b w).guardRange a len u' = (s.guardRange a len u).overlay k b w := by
  subst hu
  unfold State.guardRange
  split <;> rfl

theorem State.loadBlock_overlay (p n : Nat) :
    State.loadBlock p n (s.overlay k b w) = (State.loadBlock p n s).overlay k b w := by
  induction n with
  | zero => rfl
  | succ n ih =>
    simp only [State.loadBlock, ih]
    rfl

end

section
variable {s t : State}

/-- With the sample as it is, LD Vx, K ends alike. -/
theorem exec_ldVxK_overlay (x : Reg) (b : Byte) (w : Vector Word 16) (h : exec (.ldVxK x) s = .next t) :
    exec (.ldVxK x) (s.overlay s.keys b w) = .next (t.overlay s.keys b w) := by
  have hwaiting : (s.overlay s.keys b w).waiting = s.waiting := rfl
  have hedges : (s.overlay s.keys b w).keyEdges = s.keyEdges := rfl
  cases h
  simp only [exec, execLdVxK, hwaiting, hedges]
  split
  · split <;> rfl
  · rfl

/-- An instruction that does not use the stack commutes with a replacement that keeps the inputs it reads. -/
theorem exec_overlay {i : Instr} {k : Keys} {b : Byte} (w : Vector Word 16) (hi : usesStack i = false)
    (hk : readsKeys i = true → k = s.keys) (hb : readsRnd i = true → b = s.rnd) (h : exec i s = .next t) :
    exec i (s.overlay k b w) = .next (t.overlay k b w) := by
  cases i
  case ret | call => cases hi
  case skp | sknp =>
    obtain rfl := hk rfl
    cases h
    rfl
  case ldVxK x =>
    obtain rfl := hk rfl
    exact exec_ldVxK_overlay x b w h
  case rnd =>
    obtain rfl := hb rfl
    cases h
    rfl
  case drw | ldB | storeRegs =>
    cases h
    exact congrArg Host.Outcome.next (s.guardRange_overlay k b w _ _ (by rfl))
  case loadRegs x =>
    cases h
    have hload := s.loadBlock_overlay k b w s.i.toNat (x.toNat + 1)
    exact congrArg Host.Outcome.next (s.guardRange_overlay k b w _ _ (congrArg (State.retire s.npc) hload))
  all_goals
    cases h
    rfl

/-! ### the stack instructions, case by case of the depth -/

theorem State.pushAndJump_of_lt (ret target : Word) (h : s.sp.val < 16) : s.pushAndJump ret target =
    State.retire target { s with stack := s.stack.set s.sp.val ret h, sp := ⟨s.sp.val + 1, by omega⟩ } :=
  dif_pos h

theorem State.pushAndJump_of_full (ret target : Word) (h : ¬ s.sp.val < 16) :
    s.pushAndJump ret target = s.raise (.stackOverflow 16) :=
  dif_neg h

theorem State.popAndJump_of_pos (h : 0 < s.sp.val) : s.popAndJump =
    State.retire (s.stack[s.sp.val - 1]'(by omega)) { s with sp := ⟨s.sp.val - 1, by omega⟩ } :=
  dif_pos h

theorem State.popAndJump_of_empty (h : ¬ 0 < s.sp.val) : s.popAndJump = s.raise (.stackUnderflow 0) :=
  dif_neg h

theorem State.pushAndJump_present (k : Keys) (b : Byte) (ret target : Word) :
    (s.present k b).pushAndJump ret target = (s.pushAndJump ret target).present k b := by
  by_cases h : s.sp.val < 16
  · rw [State.pushAndJump_of_lt ret target h]
    exact State.pushAndJump_of_lt (s := s.present k b) ret target h
  · rw [State.pushAndJump_of_full ret target h]
    exact State.pushAndJump_of_full (s := s.present k b) ret target h

theorem State.popAndJump_present (k : Keys) (b : Byte) :
    (s.present k b).popAndJump = s.popAndJump.present k b := by
  by_cases h : 0 < s.sp.val
  · rw [State.popAndJump_of_pos h]
    exact State.popAndJump_of_pos (s := s.present k b) h
  · rw [State.popAndJump_of_empty h]
    exact State.popAndJump_of_empty (s := s.present k b) h

end

/-! ### the inputs -/

/-- The inputs stay for the whole Step. -/
theorem exec_inputs_eq {i : Instr} {s t : State} (h : exec i s = .next t) : t.keys = s.keys ∧ t.rnd = s.rnd := by
  rcases exec_shape h with ⟨f, rfl⟩ | ⟨_, rfl⟩ | ⟨p, u, rfl, _, _, hkeys, hrnd, _, _⟩
  · exact ⟨rfl, rfl⟩
  · exact ⟨rfl, rfl⟩
  · exact ⟨hkeys, hrnd⟩

/-- An instruction commutes with presenting other inputs, where it does not read them (R24, R25). -/
theorem exec_present {i : Instr} {s t : State} {k : Keys} {b : Byte} (hk : readsKeys i = true → k = s.keys)
    (hb : readsRnd i = true → b = s.rnd) (h : exec i s = .next t) :
    exec i (s.present k b) = .next (t.present k b) := by
  cases hi : usesStack i with
  | false =>
    have hstack : t.stack = s.stack := (exec_stack_eq hi h).2
    have ht : t.overlay k b s.stack = t.present k b := by rw [← hstack]; rfl
    exact ht ▸ exec_overlay s.stack hi hk hb h
  | true =>
    cases i
    case ret => cases h; exact congrArg Host.Outcome.next (s.popAndJump_present k b)
    case call nnn => cases h; exact congrArg Host.Outcome.next (s.pushAndJump_present k b _ _)
    all_goals cases hi

/-- Settles O51: replacing one input presents it together with the other one as it is. -/
theorem inputsReachOnlyTheirReaders : Obligations.InputsReachOnlyTheirReaders := by
  intro i s t h
  obtain ⟨hkeys, hrnd⟩ := exec_inputs_eq h
  constructor
  · intro hi k
    have hk : readsKeys i = true → k = s.keys := by simp [hi]
    have ht : t.present k s.rnd = { t with keys := k } := by rw [← hrnd]; rfl
    exact ht ▸ exec_present hk (fun _ => rfl) h
  · intro hi b
    have hb : readsRnd i = true → b = s.rnd := by simp [hi]
    have ht : t.present s.keys b = { t with rnd := b } := by rw [← hkeys]; rfl
    exact ht ▸ exec_present (fun _ => rfl) hb h

/-! ### the dead entries of the stack -/

/-- Two stacks agree in their entries below `n`. -/
def agreeBelow (n : Nat) (u w : Vector Word 16) : Prop := ∀ (k : Nat) (h : k < 16), k < n → u[k] = w[k]

/-- The same entry pushed on stacks that agree below the depth gives stacks that agree below the new one. -/
theorem agreeBelow_set {n : Nat} {u w : Vector Word 16} (h : agreeBelow n u w) (hn : n < 16) (a : Word) :
    agreeBelow (n + 1) (u.set n a) (w.set n a) := by
  intro k hk live
  simp only [Vector.getElem_set]
  split
  · rfl
  · exact h k hk (by omega)

/-- With `w` for the stack of `s`, `i` ends as in `t` but for the stack, which agrees with that of `t` in its live
entries. -/
def runsAlike (i : Instr) (s t : State) (w : Vector Word 16) : Prop :=
  ∃ w', exec i { s with stack := w } = .next { t with stack := w' } ∧ agreeBelow t.sp.val w' t.stack

section
variable {s t : State} {w : Vector Word 16}

/-- RET reads the newest live entry and no other. -/
theorem runsAlike_ret (hw : agreeBelow s.sp.val w s.stack) : runsAlike .ret s s.popAndJump w := by
  refine ⟨w, congrArg Host.Outcome.next ?_, ?_⟩
  · by_cases h : 0 < s.sp.val
    · have hnewest := hw (s.sp.val - 1) (by omega) (by omega)
      rw [State.popAndJump_of_pos h, ← hnewest]
      exact State.popAndJump_of_pos (s := { s with stack := w }) h
    · rw [State.popAndJump_of_empty h]
      exact State.popAndJump_of_empty (s := { s with stack := w }) h
  · intro k hk live
    rcases s.popAndJump_cases with ⟨_, hpop⟩ | ⟨_, hpop⟩
    · rw [hpop] at live ⊢
      exact hw k hk (by simp only [State.retire_sp] at live; omega)
    · rw [hpop] at live ⊢
      exact hw k hk live

/-- CALL writes one entry and reads none. -/
theorem runsAlike_call (nnn : Addr) (hw : agreeBelow s.sp.val w s.stack) :
    runsAlike (.call nnn) s (s.pushAndJump s.npc (zextAddr nnn)) w := by
  by_cases h : s.sp.val < 16
  · rw [State.pushAndJump_of_lt _ _ h]
    exact ⟨w.set s.sp.val s.npc h,
      congrArg Host.Outcome.next (State.pushAndJump_of_lt (s := { s with stack := w }) s.npc (zextAddr nnn) h),
      agreeBelow_set hw h s.npc⟩
  · rw [State.pushAndJump_of_full _ _ h]
    exact ⟨w,
      congrArg Host.Outcome.next (State.pushAndJump_of_full (s := { s with stack := w }) s.npc (zextAddr nnn) h), hw⟩

/-- Any other instruction leaves the stack that it finds. -/
theorem runsAlike_of_not_usesStack {i : Instr} (hi : usesStack i = false) (h : exec i s = .next t)
    (hw : agreeBelow s.sp.val w s.stack) : runsAlike i s t w := by
  obtain ⟨hsp, hstack⟩ := exec_stack_eq hi h
  obtain ⟨hkeys, hrnd⟩ := exec_inputs_eq h
  refine ⟨w, ?_, by rwa [hsp, hstack]⟩
  have ht : t.overlay s.keys s.rnd w = { t with stack := w } := by rw [← hkeys, ← hrnd]; rfl
  exact ht ▸ exec_overlay w hi (fun _ => rfl) (fun _ => rfl) h

end

/-- Settles O53: RET, CALL, and the instructions that do not use the stack. -/
theorem deadStackEntriesAreNeverRead : Obligations.DeadStackEntriesAreNeverRead := by
  intro i s t w hw h
  have halike : runsAlike i s t w := by
    cases hi : usesStack i with
    | false => exact runsAlike_of_not_usesStack hi h hw
    | true =>
      cases i
      case ret => cases h; exact runsAlike_ret hw
      case call nnn => cases h; exact runsAlike_call nnn hw
      all_goals cases hi
  obtain ⟨w', hrun, hlive⟩ := halike
  exact ⟨_, hrun, rfl, hlive⟩

end Sys2Proof.Machine
end

section
/-! The Step event once its instruction is known or a fault is latched, and the values Reset gives (spec/10_state.md
R15, R21, R26, R28). -/

namespace Sys2Proof.Machine

open Sys2Proof.Safety

/-! ### the Step event -/

theorem step_of_nextEvent_step {s : State} {k : Keys} {b : Byte} (h : s.nextEvent = .step k b) :
    step s = (s.dropEvent.present k b).stepEvent := by
  simp [step, h, State.perform]

theorem stepEvent_of_faulted {s : State} (h : s.err.valid = true) : s.stepEvent = .next s.refuseStep := by
  simp [State.stepEvent, h]

theorem stepEvent_of_fetchDecode {s : State} {i : Instr} (hv : s.err.valid = false) (hi : s.fetchDecode = .ok i) :
    s.stepEvent = exec i s := by
  simp [State.stepEvent, hv, hi]

theorem fetchDecode_of_decodeWord {s : State} {i : Instr} (hp : s.pc.toNat ≤ 0xFFE)
    (hi : decodeWord s.wordAtPc = .ok i) : s.fetchDecode = .ok i := by
  rcases s.fetchWord_cases with ⟨_, hw⟩ | ⟨hp', _⟩
  · simp [State.fetchDecode, hw, hi]
  · omega

/-- Settles O6: taking the event and presenting the inputs move neither PC nor memory. -/
theorem stepRunsTheDecodedInstruction : Obligations.StepRunsTheDecodedInstruction := by
  intro s keys rnd i he hv hp hi
  have hfetch : (s.dropEvent.present keys rnd).fetchDecode = .ok i :=
    (fetchDecode_congr s.dropEvent_pc s.dropEvent_mem).trans (fetchDecode_of_decodeWord hp hi)
  have hnoFault : (s.dropEvent.present keys rnd).err.valid = false := by simp [hv]
  rw [step_of_nextEvent_step he, stepEvent_of_fetchDecode hnoFault hfetch]

/-- Settles O11: the refused Step answers the record that is latched. -/
theorem faultedRefusesEveryStep : Obligations.FaultedRefusesEveryStep := by
  intro s keys rnd he hv
  have hfaulted : (s.dropEvent.present keys rnd).err.valid = true := by simp [hv]
  refine ⟨(s.dropEvent.present keys rnd).refuseStep, ?_, ?_, ?_, ?_⟩
  · rw [step_of_nextEvent_step he, stepEvent_of_faulted hfaulted]
  · simp [sameMachine]
  · simp
  · simp

/-! ### Reset -/

@[simp] theorem reset_getV (r : Reg) : State.reset.getV r = 0 := by
  simp [State.getV, State.reset]

@[simp] theorem reset_stack_getElem (k : Nat) (h : k < 16) : State.reset.stack[k] = 0 := by
  simp [State.reset]

/-- Settles O15: the Reset event has the fields of State.reset, and the memory it found. -/
theorem resetEventRestoresResetValues : Obligations.ResetEventRestoresResetValues := by
  intro s he
  have hstep : step s = .next s.dropEvent.resetEvent := by simp [step, he, State.perform]
  exact ⟨s.dropEvent.resetEvent, hstep, reset_getV, rfl, rfl, rfl, reset_stack_getElem, rfl, rfl, rfl, rfl, rfl,
    Display.pixel_dark, s.dropEvent_mem⟩

/-- Settles O16, field by field. -/
theorem resetStateHoldsTheSpecValues : Obligations.ResetStateHoldsTheSpecValues :=
  ⟨reset_getV, rfl, rfl, rfl, reset_stack_getElem, rfl, rfl, rfl, rfl, rfl, Display.pixel_dark, rfl⟩

/-! ### the output -/

/-- Settles O17: a byte is 0 exactly when its number is. -/
theorem soundIsOnExactlyWhenSTNonzero : Obligations.SoundIsOnExactlyWhenSTNonzero := by
  intro s
  have hzero : s.st = 0 ↔ s.st.toNat = 0 := BitVec.toNat_eq
  simp [State.soundOn, ← hzero]

end Sys2Proof.Machine
end

section
/-! Data accesses and fetches (spec/20_memory.md): what an access past 0xFFF answers (R46 to R48), and that the fetch
reads what a block store wrote (R44, R54). -/

namespace Sys2Proof.Machine

open Sys2Proof.Safety

/-! ### a fault as the claims say it -/

theorem latched_raise (s : State) (f : CoreFault) : latched f.code s.pc f.info.toNat (s.raise f) :=
  ⟨rfl, rfl, rfl, rfl, rfl⟩

theorem sameMachine_raise (s : State) (f : CoreFault) : sameMachine s (s.raise f) :=
  ⟨rfl, rfl, rfl, rfl, rfl, rfl, rfl, rfl, rfl, rfl, rfl⟩

theorem faultTaken_raise (s : State) (f : CoreFault) : faultTaken f.code f.info.toNat s (s.raise f) :=
  ⟨latched_raise s f, sameMachine_raise s f, rfl, rfl, rfl, rfl⟩

/-- The fault of an access at `a` has code 4 and, as its info, the lowest address past memory in the range (R47). -/
theorem faultTaken_outOfBounds (s : State) (a : Word) :
    faultTaken 4 (max a.toNat 0x1000) s (s.raise (.outOfBounds (firstBadAddress a))) :=
  outOfBounds_info_toNat a ▸ faultTaken_raise s (.outOfBounds (firstBadAddress a))

/-! ### a fetch or a data access past the end of memory -/

theorem stepEvent_of_fetchDecode_error {s : State} {f : CoreFault} (hv : s.err.valid = false)
    (hf : s.fetchDecode = .error f) : s.stepEvent = .next (s.raise f) := by
  simp [State.stepEvent, hv, hf]

theorem fetchDecode_of_pc_outside {s : State} (hp : s.pc.toNat > 0xFFE) :
    s.fetchDecode = .error (.outOfBounds (firstBadAddress s.pc)) := by
  rcases s.fetchWord_cases with ⟨hp', _⟩ | ⟨_, hw⟩
  · omega
  · simp [State.fetchDecode, hw]

/-- R46: each of the four instructions that access memory checks its whole range before the access. -/
theorem exec_of_access_outside {i : Instr} {s : State} (h0 : accessLength i > 0)
    (h : s.i.toNat + accessLength i - 1 > 0xFFF) :
    exec i s = .next (s.raise (.outOfBounds (firstBadAddress s.i))) := by
  cases i
  case drw | ldB | storeRegs | loadRegs =>
    exact congrArg Host.Outcome.next (s.guardRange_outside s.i _ _ h0 h)
  all_goals exact absurd h0 (Nat.lt_irrefl 0)

/-- Settles O7: taking the event and presenting the inputs touch neither the machine nor what the fetch reads. -/
theorem outOfBoundsIsTakenBeforeAnyAccess : Obligations.OutOfBoundsIsTakenBeforeAnyAccess := by
  constructor
  · intro s keys rnd he hv hp
    have hfetch : (s.dropEvent.present keys rnd).fetchDecode = .error (.outOfBounds (firstBadAddress s.pc)) :=
      (fetchDecode_congr s.dropEvent_pc s.dropEvent_mem).trans (fetchDecode_of_pc_outside hp)
    have hnoFault : (s.dropEvent.present keys rnd).err.valid = false := by simp [hv]
    obtain ⟨hlatched, _, _⟩ := faultTaken_outOfBounds (s.dropEvent.present keys rnd) s.pc
    refine ⟨_, ?_, by simpa using hlatched, by simp [sameMachine]⟩
    rw [step_of_nextEvent_step he, stepEvent_of_fetchDecode_error hnoFault hfetch]
  · intro i s h0 h
    exact ⟨_, exec_of_access_outside h0 h, faultTaken_outOfBounds s s.i⟩

/-! ### fetching the bytes of a block store -/

theorem fetchWord_of_pc_inside {s : State} (hp : s.pc.toNat ≤ 0xFFE) : s.fetchWord = .ok s.wordAtPc := by
  rcases s.fetchWord_cases with ⟨_, hw⟩ | ⟨hp', _⟩
  · exact hw
  · omega

theorem exec_storeRegs_inside {x : Reg} {s : State} (h : s.i.toNat + x.toNat ≤ 0xFFF) :
    exec (.storeRegs x) s =
      .next ((s.setMem (Memory.writeBytes s.i.toNat (s.blockBytes x) s.mem)).retire s.npc) :=
  congrArg Host.Outcome.next (s.guardRange_inside s.i _ _ (.inr (by omega)))

/-- R124: after LD [I], Vx the byte at I + k is V[k], for every k up to x. -/
theorem read_of_exec_storeRegs {x : Reg} {s t : State} (hm : s.mem.wf = true) (hi : s.i.toNat + x.toNat ≤ 0xFFF)
    (h : exec (.storeRegs x) s = .next t) {k : Nat} (hk : k ≤ x.toNat) :
    Memory.read (s.i.toNat + k) t.mem = s.getV (BitVec.ofNat 4 k) := by
  rw [exec_storeRegs_inside hi] at h
  cases h
  have hx := x.isLt
  have hq : (BitVec.ofNat 4 k).toNat = k := Nat.mod_eq_of_lt (by omega)
  have hin : s.i.toNat + (s.blockBytes x).length ≤ Config.memSize := by
    rw [s.blockBytes_length x]
    exact show _ ≤ 4096 by omega
  have hlen : (BitVec.ofNat 4 k).toNat < (s.blockBytes x).length := by
    rw [s.blockBytes_length x]
    omega
  calc Memory.read (s.i.toNat + k) (Memory.writeBytes s.i.toNat (s.blockBytes x) s.mem)
    _ = Memory.read (s.i.toNat + (BitVec.ofNat 4 k).toNat)
          (Memory.writeBytes s.i.toNat (s.blockBytes x) s.mem) := by rw [hq]
    _ = (s.blockBytes x)[(BitVec.ofNat 4 k).toNat] := Memory.read_writeBytes hm hin hlen
    _ = s.getV (BitVec.ofNat 4 k) := s.blockBytes_getElem x _ hlen

/-- Settles O37: the fetch reads the addresses I + k and I + k + 1, which hold V[k] and V[k + 1]. -/
theorem storedBytesAreFetchedAtOnce : Obligations.StoredBytesAreFetchedAtOnce := by
  intro x k s t hm hi hk h
  have hpc : (s.i + BitVec.ofNat 16 k).toNat = s.i.toNat + k := by bv_omega
  have hhi := read_of_exec_storeRegs hm hi h (k := k) (by omega)
  have hlo := read_of_exec_storeRegs hm hi h (k := k + 1) (by omega)
  rw [fetchWord_of_pc_inside (by simp only [hpc]; omega)]
  simp only [State.wordAtPc, hpc, Nat.add_assoc, hhi, hlo]

end Sys2Proof.Machine
end

section
/-! The decoder against the encoder (spec/30_encoding.md R61 to R72): an encoding selects its instruction, and
everything the decoder can do with a word, said once. -/

namespace Sys2Proof

open Sys2Proof.Safety

/-! ### decoding an encoding -/

theorem wellFormed_sys_iff {nnn : Addr} : (Instr.sys nnn).WellFormed ↔ nnn ≠ 0x0E0 ∧ nnn ≠ 0x0EE := by
  simp [Instr.WellFormed, Instr.wellFormed]

/-- R66: a SYS address that is neither of the two fixed words selects SYS. -/
theorem selectSystem_of_wellFormed {nnn : Addr} (h : (Instr.sys nnn).WellFormed) : selectSystem nnn = .sys nnn := by
  unfold selectSystem
  split
  case h_1 => cases h
  case h_2 => cases h
  case h_3 => rfl

/-- The fields of the encoded word select the instruction, format by format (R62). -/
theorem selectInstr_encode {i : Instr} (h : i.WellFormed) : selectInstr (encode i) = some i := by
  cases i
  case cls | ret => rfl
  case sys nnn => simp [encode, selectInstr, selectSystem_of_wellFormed h]
  case jp | call | ldI | jpV0 => simp [encode, selectInstr]
  case seImm | sneImm | ldImm | addImm | rnd => simp [encode, selectInstr]
  case seReg | sneReg | drw => simp [encode, selectInstr]
  case ldReg | orReg | andReg | xorReg | addReg | sub | shr | subn | shl => simp [encode, selectInstr, selectAlu]
  case skp | sknp => simp [encode, selectInstr, selectKey]
  all_goals simp [encode, selectInstr, selectMisc]

theorem decodeWord_eq_ok_iff {w : Word} {i : Instr} : decodeWord w = .ok i ↔ selectInstr w = some i := by
  cases ho : selectInstr w <;> simp [decodeWord, ho]

theorem decodeWord_eq_error_iff {w : Word} {e : DecodeError} :
    decodeWord w = .error e ↔ selectInstr w = none ∧ e = .unknownOpcode w := by
  cases ho : selectInstr w <;> simp [decodeWord, ho, eq_comm]

/-- R43, R60: the two bytes of a word are read back as the word. -/
theorem decodeBytes_of_decodeWord {w : Word} {i : Instr} (h : decodeWord w = .ok i) (rest : List Byte) :
    decodeBytes (wordBytes w ++ rest) = .ok (i, rest) := by
  simp [wordBytes, decodeBytes, bytesWord_wordBytes, h]

/-- Settles O2: the word by its fields, the bytes by the word. -/
theorem decodeOfEncodeIsIdentity : Obligations.DecodeOfEncodeIsIdentity := by
  intro i hi
  have hword : decodeWord (encode i) = .ok i := decodeWord_eq_ok_iff.2 (selectInstr_encode hi)
  exact ⟨hword, decodeBytes_of_decodeWord hword⟩

/-! ### everything the decoder can do -/

/-- What selection answers for the word `w`: a well-formed instruction whose encoding is `w`, or nothing, where
`illegal` holds. -/
inductive Selection (w : Word) (illegal : Prop) : Option Instr → Prop where
  /-- the word is an encoding -/
  | legal {i : Instr} (wf : i.WellFormed) (enc : encode i = w) : Selection w illegal (some i)
  /-- the word is outside the set -/
  | illegal (h : illegal) : Selection w illegal none

theorem selectSystem_selection {w : Word} {nnn : Addr} (hw : wordNNN 0x0 nnn = w) (P : Prop) :
    Selection w P (some (selectSystem nnn)) := by
  unfold selectSystem
  split
  case h_1 => exact .legal rfl hw
  case h_2 => exact .legal rfl hw
  case h_3 h0 h1 => exact .legal (wellFormed_sys_iff.2 ⟨h0, h1⟩) hw

theorem selectAlu_selection {w : Word} {x y : Reg} {n : BitVec 4} (hw : wordXYN 0x8 x y n = w) :
    Selection w (n ∈ [0x8, 0x9, 0xA, 0xB, 0xC, 0xD, (0xF : BitVec 4)]) (selectAlu x y n) := by
  unfold selectAlu
  split
  case h_10 => exact .illegal (by simp only [imp_false, List.mem_cons] at *; bv_omega)
  all_goals exact .legal rfl hw

theorem selectKey_selection {w : Word} {x : Reg} {kk : Byte} (hw : wordXKK 0xE x kk = w) :
    Selection w (kk ∉ [0x9E, (0xA1 : Byte)]) (selectKey x kk) := by
  unfold selectKey
  split
  case h_3 => exact .illegal (by simp_all)
  all_goals exact .legal rfl hw

theorem selectMisc_selection {w : Word} {x : Reg} {kk : Byte} (hw : wordXKK 0xF x kk = w) :
    Selection w (kk ∉ [0x07, 0x0A, 0x15, 0x18, 0x1E, 0x29, 0x33, 0x55, (0x65 : Byte)]) (selectMisc x kk) := by
  unfold selectMisc
  split
  case h_10 => exact .illegal (by simp_all)
  all_goals exact .legal rfl hw

theorem wordNNN_of_op {w : Word} {op : BitVec 4} (h : fieldOp w = op) : wordNNN op (fieldNNN w) = w :=
  h ▸ wordNNN_fields w

theorem wordXKK_of_op {w : Word} {op : BitVec 4} (h : fieldOp w = op) : wordXKK op (fieldX w) (fieldKK w) = w :=
  h ▸ wordXKK_fields w

theorem wordXYN_of_op {w : Word} {op : BitVec 4} (h : fieldOp w = op) :
    wordXYN op (fieldX w) (fieldY w) (fieldN w) = w :=
  h ▸ wordXYN_fields w

/-- Families 5 and 9 (R70): one instruction, with n = 0. -/
theorem selection_of_zero_n {w : Word} {op : BitVec 4} {i : Instr} (h : fieldOp w = op) (wf : i.WellFormed)
    (enc : encode i = wordXYN op (fieldX w) (fieldY w) 0x0) :
    Selection w (fieldN w ≠ 0x0) (if fieldN w = 0x0 then some i else none) := by
  split
  case isTrue hn => exact .legal wf (by rw [enc, ← hn, wordXYN_of_op h])
  case isFalse hn => exact .illegal hn

theorem Selection.mono {w : Word} {P Q : Prop} {o : Option Instr} (h : Selection w P o) (hPQ : P → Q) :
    Selection w Q o := by
  cases h with
  | legal wf enc => exact .legal wf enc
  | illegal hP => exact .illegal (hPQ hP)

/-- R64, R71: a word is the encoding of the instruction it selects, or it is on the list of illegal words. -/
theorem selectInstr_selection (w : Word) : Selection w (illegalWord w) (selectInstr w) := by
  unfold selectInstr illegalWord
  split
  case h_1 h => exact selectSystem_selection (wordNNN_of_op h) _
  case h_2 h | h_3 h | h_11 h | h_12 h => exact .legal rfl (wordNNN_of_op h)
  case h_4 h | h_5 h | h_7 h | h_8 h | h_13 h => exact .legal rfl (wordXKK_of_op h)
  case h_14 h => exact .legal rfl (wordXYN_of_op h)
  case h_6 h => exact (selection_of_zero_n h rfl rfl).mono fun hn => .inl ⟨h, hn⟩
  case h_9 h => exact (selectAlu_selection (wordXYN_of_op h)).mono fun hn => .inr (.inl ⟨h, hn⟩)
  case h_10 h => exact (selection_of_zero_n h rfl rfl).mono fun hn => .inr (.inr (.inl ⟨h, hn⟩))
  case h_15 h => exact (selectKey_selection (wordXKK_of_op h)).mono fun hk => .inr (.inr (.inr (.inl ⟨h, hk⟩)))
  case h_16 =>
    have h : fieldOp w = 0xF := by
      simp only [imp_false] at *
      bv_omega
    exact (selectMisc_selection (wordXKK_of_op h)).mono fun hk => .inr (.inr (.inr (.inr ⟨h, hk⟩)))

/-- Everything the decoder can do with a word. -/
theorem decodeWord_cases (w : Word) :
    (∃ i, decodeWord w = .ok i ∧ i.WellFormed ∧ encode i = w) ∨
    (decodeWord w = .error (.unknownOpcode w) ∧ illegalWord w) := by
  have hs := selectInstr_selection w
  cases ho : selectInstr w with
  | some i =>
    rw [ho] at hs
    cases hs with
    | legal wf enc => exact .inl ⟨i, decodeWord_eq_ok_iff.2 ho, wf, enc⟩
  | none =>
    rw [ho] at hs
    cases hs with
    | illegal h => exact .inr ⟨decodeWord_eq_error_iff.2 ⟨ho, rfl⟩, h⟩

/-- Settles O3: what a word decodes to encodes it. -/
theorem encodeOfDecodeIsIdentity : Obligations.EncodeOfDecodeIsIdentity := by
  intro w i h
  rcases decodeWord_cases w with ⟨j, hj, wf, enc⟩ | ⟨he, _⟩
  · cases hj.symm.trans h
    exact ⟨wf, enc⟩
  · cases he.symm.trans h

theorem encode_of_selectInstr {w : Word} {i : Instr} (h : selectInstr w = some i) : encode i = w :=
  (encodeOfDecodeIsIdentity w i (decodeWord_eq_ok_iff.2 h)).2

end Sys2Proof
end

section
/-! The list of illegal words (spec/30_encoding.md R71) and how many words of a family are legal
(spec/95_test_vectors.md 2.1). -/

namespace Sys2Proof

open Sys2Proof.Safety

/-! ### the illegal words -/

theorem not_illegalWord_encode (i : Instr) : ¬ illegalWord (encode i) := by
  cases i
  case cls | ret => unfold illegalWord; decide
  all_goals simp [illegalWord, encode]

theorem decodeWord_of_illegalWord {w : Word} (h : illegalWord w) : decodeWord w = .error (.unknownOpcode w) := by
  rcases decodeWord_cases w with ⟨i, _, _, enc⟩ | ⟨he, _⟩
  · exact absurd (enc ▸ h) (not_illegalWord_encode i)
  · exact he

theorem decodeWord_of_not_illegalWord {w : Word} (h : ¬ illegalWord w) : ∃ i, decodeWord w = .ok i := by
  rcases decodeWord_cases w with ⟨i, hi, _, _⟩ | ⟨_, hw⟩
  · exact ⟨i, hi⟩
  · exact absurd hw h

theorem accepted_iff (w : Word) : accepted w = true ↔ ¬ illegalWord w := by
  unfold accepted
  by_cases h : illegalWord w
  · simp [decodeWord_of_illegalWord h, h]
  · obtain ⟨i, hi⟩ := decodeWord_of_not_illegalWord h
    simp [hi, h]

/-! ### counting the legal words -/

theorem length_filter_range_mul (q : Nat → Bool) (m n : Nat) :
    ((List.range (m * n)).filter (fun r => q (r % n))).length = m * ((List.range n).filter q).length := by
  induction m with
  | zero => simp
  | succ m ih =>
    have hblock : ((List.range n).filter (fun r => q ((m * n + r) % n))) = (List.range n).filter q :=
      List.filter_congr fun r hr => by
        rw [Nat.mul_add_mod_self_right, Nat.mod_eq_of_lt (List.mem_range.1 hr)]
    rw [Nat.succ_mul, List.range_add, List.filter_append, List.length_append, ih, List.filter_map, List.length_map,
      Nat.succ_mul]
    exact congrArg _ (congrArg _ hblock)

theorem length_filter_mem {L : List Nat} {n : Nat} (hL : L.Nodup) (hlt : ∀ a ∈ L, a < n) :
    ((List.range n).filter (fun r => decide (r ∈ L))).length = L.length := by
  have hperm : List.Perm ((List.range n).filter (fun r => decide (r ∈ L))) L := by
    rw [List.perm_ext_iff_of_nodup (List.nodup_range.filter _) hL]
    intro a
    simpa using hlt a
  exact hperm.length_eq

/-- In a family the legal words are known by their place in it modulo this number. -/
def legalModulus : Nat → Nat
  | 0x5 | 0x8 | 0x9 => 16
  | 0xE | 0xF => 256
  | _ => 1

/-- The places of the legal words of a family modulo `legalModulus`: a value of n, of kk, or any word. -/
def legalPlaces : Nat → List Nat
  | 0x8 => [0x0, 0x1, 0x2, 0x3, 0x4, 0x5, 0x6, 0x7, 0xE]
  | 0xE => [0x9E, 0xA1]
  | 0xF => [0x07, 0x0A, 0x15, 0x18, 0x1E, 0x29, 0x33, 0x55, 0x65]
  | _ => [0]

/-- The list of R71 with the fields as numbers. -/
theorem illegalWord_ofNat_iff {op r : Nat} (hop : op < 16) (hr : r < 4096) :
    illegalWord (BitVec.ofNat 16 (op * 4096 + r)) ↔
      (op = 0x5 ∧ r % 16 ≠ 0) ∨ (op = 0x8 ∧ r % 16 ∈ [0x8, 0x9, 0xA, 0xB, 0xC, 0xD, 0xF]) ∨
      (op = 0x9 ∧ r % 16 ≠ 0) ∨ (op = 0xE ∧ r % 256 ∉ legalPlaces 0xE) ∨ (op = 0xF ∧ r % 256 ∉ legalPlaces 0xF) := by
  have hfamily : (fieldOp (BitVec.ofNat 16 (op * 4096 + r))).toNat = op := by
    simp only [fieldOp, BitVec.extractLsb'_toNat, BitVec.toNat_ofNat, Nat.shiftRight_eq_div_pow]
    omega
  have hn : (fieldN (BitVec.ofNat 16 (op * 4096 + r))).toNat = r % 16 := by
    simp only [fieldN, BitVec.extractLsb'_toNat, BitVec.toNat_ofNat, Nat.shiftRight_zero]
    omega
  have hkk : (fieldKK (BitVec.ofNat 16 (op * 4096 + r))).toNat = r % 256 := by
    simp only [fieldKK, BitVec.extractLsb'_toNat, BitVec.toNat_ofNat, Nat.shiftRight_zero]
    omega
  simp [illegalWord, legalPlaces, BitVec.toNat_eq, hfamily, hn, hkk]

theorem accepted_ofNat {op r : Nat} (hop : op < 16) (hr : r < 4096) :
    accepted (BitVec.ofNat 16 (op * 4096 + r)) = decide (r % legalModulus op ∈ legalPlaces op) := by
  rw [Bool.eq_iff_iff, accepted_iff, illegalWord_ofNat_iff hop hr, decide_eq_true_iff]
  obtain rfl | rfl | rfl | ⟨h8, hE, hF⟩ : op = 0x8 ∨ op = 0xE ∨ op = 0xF ∨ (op ≠ 0x8 ∧ op ≠ 0xE ∧ op ≠ 0xF) := by
    omega
  · simp only [legalModulus, legalPlaces, List.mem_cons, List.not_mem_nil, Nat.reduceEqDiff, false_and, true_and,
      false_or, or_false]
    omega
  · simp [legalModulus]
  · simp [legalModulus]
  · simp only [h8, hE, hF, false_and, or_false, false_or]
    interval_cases op <;> simp_all [legalModulus, legalPlaces, Nat.mod_one]

theorem legalPlaces_wf : ∀ op < 16, 4096 / legalModulus op * legalModulus op = 4096 ∧ (legalPlaces op).Nodup ∧
    ∀ a ∈ legalPlaces op, a < legalModulus op := by
  decide

/-- Every legal place stands for as many words as the modulus goes into 4096. -/
theorem legalWordsOfFamily_eq {op : Nat} (hop : op < 16) :
    legalWordsOfFamily op = 4096 / legalModulus op * (legalPlaces op).length := by
  obtain ⟨hdvd, hnodup, hlt⟩ := legalPlaces_wf op hop
  calc legalWordsOfFamily op
    _ = ((List.range 4096).filter (fun r => decide (r % legalModulus op ∈ legalPlaces op))).length :=
      congrArg List.length (List.filter_congr fun r hr => accepted_ofNat hop (List.mem_range.1 hr))
    _ = 4096 / legalModulus op *
          ((List.range (legalModulus op)).filter (fun r => decide (r ∈ legalPlaces op))).length := by
      rw [← length_filter_range_mul, hdvd]
    _ = _ := by rw [length_filter_mem hnodup hlt]

/-- Settles O4: both clauses from what the decoder can do, the counts from the legal places of each family. -/
theorem decoderRejectsExactlyTheIllegalWords : Obligations.DecoderRejectsExactlyTheIllegalWords := by
  have hcount : (List.range 16).map legalWordsOfFamily =
      [4096, 4096, 4096, 4096, 4096, 256, 4096, 4096, 2304, 256, 4096, 4096, 4096, 4096, 32, 144] := by
    rw [List.map_congr_left fun op hop => legalWordsOfFamily_eq (List.mem_range.1 hop)]
    rfl
  refine ⟨fun _ => decodeWord_of_illegalWord, fun _ => decodeWord_of_not_illegalWord, hcount, ?_, ?_⟩
  · rw [hcount]; rfl
  · rw [hcount]; rfl

end Sys2Proof
end

section
/-! The opcode map by mask and match against the decoder (spec/30_encoding.md R65, R66). -/

namespace Sys2Proof

theorem rowOf_mem_opcodeTable (i : Instr) : rowOf i ∈ opcodeTable := by
  cases i <;> simp [opcodeTable, tableInstrs, rowOf]

theorem exists_rowOf_eq_of_mem {r : OpcodeRow} (h : r ∈ opcodeTable) : ∃ i, rowOf i = r := by
  obtain ⟨i, _, hi⟩ := List.mem_map.1 h
  exact ⟨i, hi⟩

/-- The encoding of an instruction has the fixed bits of its row. -/
theorem encode_and_mask (i : Instr) : encode i &&& (rowOf i).mask = (rowOf i).pattern := by
  open Laws.EncodesRow in
  exact i.casesOn (motive := Statement) cls ret sys jp call seImm sneImm seReg ldImm addImm ldReg orReg andReg xorReg
    addReg sub shr subn shl sneReg ldI jpV0 rnd drw skp sknp ldVxDT ldVxK ldDTVx ldSTVx addI ldF ldB storeRegs loadRegs

/-- A row selects the words that agree with an encoding of it in the fixed bits. -/
theorem selects_rowOf_iff (i : Instr) (w : Word) :
    (rowOf i).selects w = true ↔ w &&& (rowOf i).mask = encode i &&& (rowOf i).mask := by
  rw [encode_and_mask, OpcodeRow.selects, beq_iff_eq]

theorem extract_eq_of_and_eq {n : Nat} {w w' m : BitVec n} {k l : Nat} (h : w &&& m = w' &&& m)
    (hm : m.extractLsb' k l = BitVec.allOnes l) : w.extractLsb' k l = w'.extractLsb' k l := by
  have hk := congrArg (BitVec.extractLsb' k l) h
  simpa [BitVec.extractLsb'_and, hm] using hk

/-- Every row fixes the family. -/
theorem fieldOp_mask (i : Instr) : fieldOp (rowOf i).mask = 0xF := by
  cases i <;> simp [rowOf, fieldOp]

theorem fieldN_maskXY : fieldN 0xF00F = 0xF := by decide

theorem fieldKK_maskX : fieldKK 0xF0FF = 0xFF := by decide

section
variable {i : Instr} {w : Word}

theorem fieldOp_of_selects (h : (rowOf i).selects w = true) : fieldOp w = fieldOp (encode i) :=
  extract_eq_of_and_eq ((selects_rowOf_iff i w).1 h) (fieldOp_mask i)

theorem fieldN_of_selects (h : (rowOf i).selects w = true) (hm : fieldN (rowOf i).mask = 0xF) :
    fieldN w = fieldN (encode i) :=
  extract_eq_of_and_eq ((selects_rowOf_iff i w).1 h) hm

theorem fieldKK_of_selects (h : (rowOf i).selects w = true) (hm : fieldKK (rowOf i).mask = 0xFF) :
    fieldKK w = fieldKK (encode i) :=
  extract_eq_of_and_eq ((selects_rowOf_iff i w).1 h) hm

/-- The two rows without an operand field select one word each. -/
theorem eq_of_selects (h : (rowOf i).selects w = true) (hm : (rowOf i).mask = 0xFFFF) : w = encode i := by
  have hand := (selects_rowOf_iff i w).1 h
  rw [hm] at hand
  exact BitVec.and_allOnes.symm.trans (hand.trans BitVec.and_allOnes)

/-- R66: in family 0 the address selects SYS but for the two fixed words. -/
theorem selectSystem_row (hop : fieldOp w = 0x0) :
    (w = 0x00E0 ∨ w = 0x00EE) ∨ rowOf (selectSystem (fieldNNN w)) = rowOf (.sys 0) := by
  have hw := wordNNN_of_op hop
  unfold selectSystem
  split
  case h_1 h => rw [h] at hw; exact .inl (.inl hw.symm)
  case h_2 h => rw [h] at hw; exact .inl (.inr hw.symm)
  case h_3 => exact .inr rfl

/-- A row that selects a word is that of the instruction it decodes to, but for the SYS row on the two fixed words. -/
theorem row_of_selects (h : (rowOf i).selects w = true) :
    ((w = 0x00E0 ∨ w = 0x00EE) ∧ rowOf i = rowOf (.sys 0)) ∨ (selectInstr w).map rowOf = some (rowOf i) := by
  have hop := fieldOp_of_selects h
  cases i
  case cls | ret =>
    rw [eq_of_selects h rfl]
    exact .inr rfl
  case sys nnn =>
    have hop : fieldOp w = 0x0 := by simpa [encode] using hop
    rcases selectSystem_row hop with hw | hrow
    · exact .inl ⟨hw, rfl⟩
    · have hsel : selectInstr w = some (selectSystem (fieldNNN w)) := by simp [selectInstr, hop]
      exact .inr (hsel ▸ congrArg some hrow)
  case jp | call | ldI | jpV0 | seImm | sneImm | ldImm | addImm | rnd | drw =>
    exact .inr (by simp [selectInstr, hop, encode, rowOf])
  case seReg | sneReg =>
    have hn := fieldN_of_selects h fieldN_maskXY
    exact .inr (by simp [selectInstr, hop, hn, encode, rowOf])
  case ldReg | orReg | andReg | xorReg | addReg | sub | shr | subn | shl =>
    have hn := fieldN_of_selects h fieldN_maskXY
    exact .inr (by simp [selectInstr, selectAlu, hop, hn, encode, rowOf])
  case skp | sknp =>
    have hkk := fieldKK_of_selects h fieldKK_maskX
    exact .inr (by simp [selectInstr, selectKey, hop, hkk, encode, rowOf])
  all_goals
    have hkk := fieldKK_of_selects h fieldKK_maskX
    exact .inr (by simp [selectInstr, selectMisc, hop, hkk, encode, rowOf])

end

theorem selects_of_tableRow {w : Word} {r : OpcodeRow} (h : tableRow w = some r) : r.selects w = true :=
  List.find?_some (p := fun r : OpcodeRow => r.selects w) (by rwa [tableRow] at h)

/-- The row of the table is the row of the decoder. -/
theorem tableRow_eq (w : Word) : tableRow w = (selectInstr w).map rowOf := by
  cases ht : tableRow w with
  | some r =>
    obtain ⟨i, rfl⟩ := exists_rowOf_eq_of_mem (List.mem_of_find?_eq_some ht)
    rcases row_of_selects (selects_of_tableRow ht) with ⟨rfl | rfl, _⟩ | hrow
    · exact ht.symm.trans (by decide)
    · exact ht.symm.trans (by decide)
    · exact hrow.symm
  | none =>
    cases ho : selectInstr w with
    | none => rfl
    | some i =>
      have hsel : (rowOf i).selects w = true := (selects_rowOf_iff i w).2 (by rw [encode_of_selectInstr ho])
      exact absurd hsel (List.find?_eq_none.1 ht _ (rowOf_mem_opcodeTable i))

/-- Settles O5: the table's row is the decoder's, and two rows that select one word differ only by the SYS row. -/
theorem decoderAgreesWithOpcodeTable : Obligations.DecoderAgreesWithOpcodeTable := by
  intro w
  refine ⟨fun i h => ?_, fun e h => ?_, fun r hr r' hr' hsel hsel' hne => ?_⟩
  · rw [tableRow_eq, decodeWord_eq_ok_iff.1 h]
    rfl
  · rw [tableRow_eq, (decodeWord_eq_error_iff.1 h).1]
    rfl
  · obtain ⟨i, rfl⟩ := exists_rowOf_eq_of_mem hr
    obtain ⟨i', rfl⟩ := exists_rowOf_eq_of_mem hr'
    rcases row_of_selects hsel with ⟨hw, hsys⟩ | hrow
    · exact ⟨hw, .inl hsys⟩
    · rcases row_of_selects hsel' with ⟨hw, hsys⟩ | hrow'
      · exact ⟨hw, .inr hsys⟩
      · exact absurd (Option.some.inj (hrow.symm.trans hrow')) hne

end Sys2Proof
end

section
/-! The instructions that write VF and a register (spec/10_state.md R12), and the two shifts (spec/42_alu.md R109,
R110). -/

namespace Sys2Proof.Machine

open Sys2Proof.Safety

/-! ### a completing instruction that writes VF and V[x] -/

theorem completedAt_retire_npc (s u : State) : completedAt (nextPc s) (u.retire s.npc) := by
  refine ⟨?_, rfl, rfl⟩
  simp [State.npc, nextPc]

theorem onlyRegs_writeFlagged (s : State) (f : Bool) (x : Reg) (b : Byte) (p : Word) :
    onlyRegs [x, 0xF] s ((s.writeFlagged f x b).retire p) := by
  refine ⟨fun r hr => ?_, rfl, fun _ => rfl, fun _ _ => rfl, ⟨rfl, rfl⟩, ⟨rfl, rfl⟩, ⟨rfl, rfl⟩, rfl, rfl, rfl, rfl⟩
  obtain ⟨hx, hvf⟩ : r ≠ x ∧ r ≠ 0xF := by simpa using hr
  exact (State.getV_writeFlagged s f x r b).trans ((if_neg hx).trans (if_neg hvf))

theorem getV_writeFlagged_dest (s : State) (f : Bool) (x : Reg) (b : Byte) : (s.writeFlagged f x b).getV x = b := by
  simp [State.getV_writeFlagged]

theorem flagByte_toNat (f : Bool) : (flagByte f).toNat = f.toNat := by
  cases f <;> rfl

theorem getV_writeFlagged_vf_toNat (s : State) (f : Bool) {x : Reg} (b : Byte) (hx : x ≠ vf) :
    ((s.writeFlagged f x b).getV vf).toNat = f.toNat := by
  simp [State.getV_writeFlagged, hx.symm, flagByte_toNat]

/-! ### shifts -/

theorem shrOut_toNat (a : Byte) : (shrOut a).toNat = a.toNat % 2 := by
  rw [shrOut, BitVec.getLsbD, Nat.toNat_testBit, Nat.pow_zero, Nat.div_one]

theorem shlOut_toNat (a : Byte) : (shlOut a).toNat = a.toNat / 128 := by
  have ha := a.isLt
  rw [shlOut, BitVec.getLsbD, Nat.toNat_testBit]
  omega

/-- Settles O30: each shift is one flagged write. -/
theorem shiftsMoveOneBitIntoVF : Obligations.ShiftsMoveOneBitIntoVF := by
  intro x y s
  constructor
  · refine ⟨_, rfl, ?_, fun hx => ?_, completedAt_retire_npc s _, onlyRegs_writeFlagged s _ x _ _⟩
    · exact (congrArg BitVec.toNat (getV_writeFlagged_dest s _ x _)).trans (by
        rw [BitVec.toNat_ushiftRight, Nat.shiftRight_eq_div_pow, Nat.pow_one])
    · exact (getV_writeFlagged_vf_toNat s _ _ hx).trans (shrOut_toNat _)
  · refine ⟨_, rfl, ?_, fun hx => ?_, completedAt_retire_npc s _, onlyRegs_writeFlagged s _ x _ _⟩
    · exact (congrArg BitVec.toNat (getV_writeFlagged_dest s _ x _)).trans (by
        rw [BitVec.toNat_shiftLeft, Nat.shiftLeft_eq, Nat.pow_one, Nat.mul_comm])
    · exact (getV_writeFlagged_vf_toNat s _ _ hx).trans (shlOut_toNat _)

end Sys2Proof.Machine
end

section
/-! Control transfer (spec/40_control_flow.md R80 to R84): where SYS, JP, JP V0, RET and CALL go, what RET and CALL do
with the stack, and what all five leave unchanged. -/

namespace Sys2Proof.Machine

open Sys2Proof.Safety

/-! ### targets as numbers -/

theorem zextAddr_toNat (nnn : Addr) : (zextAddr nnn).toNat = nnn.toNat :=
  BitVec.toNat_setWidth_of_le (by decide)

theorem zextByte_toNat (b : Byte) : (zextByte b).toNat = b.toNat :=
  BitVec.toNat_setWidth_of_le (by decide)

/-- D8: the sum of an address and a byte fits in PC, so it is the sum of the numbers. -/
theorem zextAddr_add_zextByte_toNat (nnn : Addr) (b : Byte) :
    (zextAddr nnn + zextByte b).toNat = nnn.toNat + b.toNat := by
  have hnnn := nnn.isLt
  have hb := b.isLt
  rw [BitVec.toNat_add, zextAddr_toNat, zextByte_toNat]
  omega

theorem npc_toNat_eq_nextPc (s : State) : s.npc.toNat = nextPc s :=
  BitVec.toNat_add s.pc 2

/-! ### SYS, JP and JP V0: only PC moves -/

theorem completedAt_retire {p : Word} {n : Nat} (hp : p.toNat = n) (u : State) : completedAt n (u.retire p) :=
  ⟨hp, rfl, rfl⟩

theorem onlyRegs_retire (s : State) (p : Word) : onlyRegs [] s (s.retire p) :=
  ⟨fun _ _ => rfl, rfl, fun _ => rfl, fun _ _ => rfl, ⟨rfl, rfl⟩, ⟨rfl, rfl⟩, ⟨rfl, rfl⟩, rfl, rfl, rfl, rfl⟩

/-- Settles O18: SYS ends at the next instruction. -/
theorem sysOnlyAdvancesPC : Obligations.SysOnlyAdvancesPC :=
  fun _ s => ⟨s.retire s.npc, rfl, completedAt_retire_npc s s, onlyRegs_retire s _⟩

/-- Settles O20: JP ends at its address, zero-extended. -/
theorem jpGoesToItsAddress : Obligations.JpGoesToItsAddress :=
  fun nnn s => ⟨s.retire (zextAddr nnn), rfl, completedAt_retire (zextAddr_toNat nnn) s, onlyRegs_retire s _⟩

/-- Settles O23: JP V0 ends at a sum that does not wrap. -/
theorem jpV0AddsV0WithoutMasking : Obligations.JpV0AddsV0WithoutMasking :=
  fun nnn s => ⟨s.retire (zextAddr nnn + zextByte (s.getV 0x0)), rfl,
    completedAt_retire (zextAddr_add_zextByte_toNat nnn _) s, onlyRegs_retire s _⟩

/-! ### RET and CALL by the depth of the stack -/

/-- The state with other stack storage and another depth. -/
def State.withStack (s : State) (w : Vector Word 16) (d : Fin 17) : State := { s with stack := w, sp := d }

/-- What RET and CALL leave unchanged when they complete: everything but PC, WAITING, the status and the stack. -/
def sameBesideStack (s t : State) : Prop :=
  sameRegsBut [] s t ∧ t.i = s.i ∧ sameMemory s t ∧ sameDisplay s t ∧ sameTimers s t ∧ sameHidden s t ∧
  sameDriver s t

theorem sameBesideStack_withStack_retire (s : State) (w : Vector Word 16) (d : Fin 17) (p : Word) :
    sameBesideStack s ((s.withStack w d).retire p) :=
  ⟨fun _ _ => rfl, rfl, fun _ => rfl, fun _ _ => rfl, ⟨rfl, rfl⟩, ⟨rfl, rfl⟩, rfl, rfl, rfl, rfl⟩

section
variable {s : State} {k : Nat}

theorem exec_ret_of_depth (hk : k < 16) (hsp : s.sp.val = k + 1) :
    exec .ret s = .next ((s.withStack s.stack ⟨k, by omega⟩).retire s.stack[k]) := by
  have hpop := State.popAndJump_of_pos (s := s) (by omega)
  simp only [hsp, Nat.add_sub_cancel] at hpop
  exact congrArg Host.Outcome.next hpop

theorem exec_ret_of_empty (hsp : s.sp.val = 0) : exec .ret s = .next (s.raise (.stackUnderflow 0)) :=
  congrArg Host.Outcome.next (State.popAndJump_of_empty (by omega))

theorem exec_call_of_depth (nnn : Addr) (hk : k < 16) (hsp : s.sp.val = k) : exec (.call nnn) s =
    .next ((s.withStack (s.stack.set k s.npc hk) ⟨k + 1, by omega⟩).retire (zextAddr nnn)) := by
  subst hsp
  exact congrArg Host.Outcome.next (State.pushAndJump_of_lt s.npc (zextAddr nnn) hk)

theorem exec_call_of_full (nnn : Addr) (hsp : s.sp.val = 16) :
    exec (.call nnn) s = .next (s.raise (.stackOverflow 16)) :=
  congrArg Host.Outcome.next (State.pushAndJump_of_full s.npc (zextAddr nnn) (by omega))

end

/-- Settles O19, by the depth: the newest entry popped, or the fault. -/
theorem retPopsThePC : Obligations.RetPopsThePC := by
  constructor
  · intro k hk s hsp
    exact ⟨_, exec_ret_of_depth hk hsp, completedAt_retire rfl _, rfl, rfl, sameBesideStack_withStack_retire s _ _ _⟩
  · intro s hsp
    exact ⟨_, exec_ret_of_empty hsp, faultTaken_raise s (.stackUnderflow 0)⟩

/-- Settles O21, by the depth: the address of the next instruction pushed, or the fault. -/
theorem callPushesTheReturnAddress : Obligations.CallPushesTheReturnAddress := by
  constructor
  · intro k hk nnn s hsp
    have hpushed : (s.stack.set k s.npc hk)[k].toNat = nextPc s := by
      rw [Vector.getElem_set_self, npc_toNat_eq_nextPc]
    have hothers : ∀ (j : Nat) (hj : j < 16), j ≠ k → (s.stack.set k s.npc hk)[j] = s.stack[j] :=
      fun j hj hne => Vector.getElem_set_ne hk hj hne.symm
    exact ⟨_, exec_call_of_depth nnn hk hsp, completedAt_retire (zextAddr_toNat nnn) _, rfl, hpushed, hothers,
      sameBesideStack_withStack_retire s _ _ _⟩
  · intro nnn s hsp
    exact ⟨_, exec_call_of_full nnn hsp, faultTaken_raise s (.stackOverflow 16)⟩

/-- Settles O22: the entry the RET pops is the one the CALL pushed. -/
theorem retUndoesCall : Obligations.RetUndoesCall := by
  intro nnn s t u hdepth hcall hstack hsp
  rw [exec_call_of_depth nnn hdepth rfl] at hcall
  cases hcall
  have hpopped : u.stack[s.sp.val] = s.npc := by
    rw [hstack]
    exact Vector.getElem_set_self hdepth
  refine ⟨_, exec_ret_of_depth hdepth (congrArg Fin.val hsp), ?_, rfl⟩
  exact (congrArg BitVec.toNat hpopped).trans (npc_toNat_eq_nextPc s)

end Sys2Proof.Machine
end

section
/-! Conditional skips on registers (spec/41_skip.md R90 to R93): all four are one shared ending, `State.skipTarget` on
the condition; what differs is only the comparison. -/

namespace Sys2Proof.Machine

open Sys2Proof.Safety

theorem skipTarget_toNat (s : State) (c : Bool) : (s.skipTarget c).toNat = if c then skipPc s else nextPc s := by
  cases c with
  | false => exact npc_toNat_eq_nextPc s
  | true =>
    change (s.pc + 2 + 2).toNat = (s.pc.toNat + 4) % 65536
    bv_omega

/-- The one shape of a skip: an instruction that ends at `skipTarget c` completes where `n` says and moves only PC. -/
theorem exists_next_of_exec_skip {i : Instr} {s : State} {c : Bool} {n : Nat}
    (hexec : exec i s = .next (s.retire (s.skipTarget c))) (hn : (if c then skipPc s else nextPc s) = n) :
    ∃ t, exec i s = .next t ∧ onlyRegs [] s t ∧ completedAt n t :=
  ⟨_, hexec, onlyRegs_retire s _, completedAt_retire ((skipTarget_toNat s c).trans hn) s⟩

section
variable {α : Type} (a b : Byte) (p q : α)

theorem ite_beq_eq_ite_toNat : (if (a == b) = true then p else q) = if a.toNat = b.toNat then p else q := by
  simp only [beq_iff_eq, BitVec.toNat_inj]

theorem ite_bne_eq_ite_toNat : (if (a != b) = true then p else q) = if a.toNat = b.toNat then q else p := by
  simp only [bne_iff_ne, ite_not, BitVec.toNat_inj]

end

/-- Settles O24: each skip ends at `skipTarget` of its comparison, and bytes are equal as their numbers are. -/
theorem skipsCompareAndAdvance : Obligations.SkipsCompareAndAdvance := by
  intro x y kk s
  refine ⟨?seImm, ?sneImm, ?seReg, ?sneReg⟩
  case seImm => exact exists_next_of_exec_skip rfl (ite_beq_eq_ite_toNat (s.getV x) kk _ _)
  case sneImm => exact exists_next_of_exec_skip rfl (ite_bne_eq_ite_toNat (s.getV x) kk _ _)
  case seReg => exact exists_next_of_exec_skip rfl (ite_beq_eq_ite_toNat (s.getV x) (s.getV y) _ _)
  case sneReg => exact exists_next_of_exec_skip rfl (ite_bne_eq_ite_toNat (s.getV x) (s.getV y) _ _)

end Sys2Proof.Machine
end

section
/-! Loads, additions, subtractions, bitwise instructions and RND (spec/42_alu.md R100 to R108, R111). Each completes
after one write to V[x], with or without VF, so what it leaves unchanged is said once for each of the two shapes; what
differs is the value written. -/

namespace Sys2Proof.Machine

open Sys2Proof.Safety

/-! ### a completing instruction that writes V[x] only -/

theorem onlyRegs_setV (s : State) (x : Reg) (b : Byte) (p : Word) : onlyRegs [x] s ((s.setV x b).retire p) := by
  refine ⟨fun r hr => ?_, rfl, fun _ => rfl, fun _ _ => rfl, ⟨rfl, rfl⟩, ⟨rfl, rfl⟩, ⟨rfl, rfl⟩, rfl, rfl, rfl, rfl⟩
  exact s.getV_setV_ne b (List.ne_of_not_mem_cons hr)

/-- The shape without a flag: the data in V[x], and no other register. -/
theorem exists_next_of_exec_setV {i : Instr} {s : State} {x : Reg} {b : Byte}
    (hexec : exec i s = .next ((s.setV x b).retire s.npc)) :
    ∃ t, exec i s = .next t ∧ t.getV x = b ∧ completedAt (nextPc s) t ∧ onlyRegs [x] s t :=
  ⟨_, hexec, s.getV_setV_self x b, completedAt_retire_npc s _, onlyRegs_setV s x b _⟩

/-- The same shape where the data is known bit by bit. -/
theorem exists_next_of_exec_setV_bits {i : Instr} {s : State} {x : Reg} {b : Byte} {bit : Nat → Bool}
    (hexec : exec i s = .next ((s.setV x b).retire s.npc)) (hbit : ∀ k, b.getLsbD k = bit k) :
    ∃ t, exec i s = .next t ∧ completedAt (nextPc s) t ∧ onlyRegs [x] s t ∧ ∀ k, (t.getV x).getLsbD k = bit k := by
  obtain ⟨t, ht, rfl, hdone, honly⟩ := exists_next_of_exec_setV hexec
  exact ⟨t, ht, hdone, honly, hbit⟩

/-- Settles O25: the immediate, or the register read before the write. -/
theorem registerLoadsCopyTheirSource : Obligations.RegisterLoadsCopyTheirSource :=
  fun _ _ _ _ => ⟨exists_next_of_exec_setV rfl, exists_next_of_exec_setV rfl⟩

/-- Settles O26: VF is among the registers kept, unless it is V[x]. -/
theorem addConstantWrapsWithoutFlag : Obligations.AddConstantWrapsWithoutFlag := by
  intro x kk s
  obtain ⟨t, ht, hdata, hdone, honly⟩ := exists_next_of_exec_setV (i := .addImm x kk) (s := s) rfl
  have hsum : (t.getV x).toNat = ((s.getV x).toNat + kk.toNat) % 256 := by
    rw [hdata, BitVec.toNat_add]
  have hflag (hx : x ≠ 0xF) : t.getV 0xF = s.getV 0xF := honly.1 0xF (by simpa using hx.symm)
  exact ⟨t, ht, hsum, hflag, hdone, honly⟩

/-- Settles O27: the bits of each combination. -/
theorem bitwiseCombineTwoRegisters : Obligations.BitwiseCombineTwoRegisters := by
  intro x y s
  refine ⟨?or, ?and, ?xor⟩
  case or => exact exists_next_of_exec_setV_bits rfl fun _ => BitVec.getLsbD_or
  case and => exact exists_next_of_exec_setV_bits rfl fun _ => BitVec.getLsbD_and
  case xor => exact exists_next_of_exec_setV_bits rfl fun _ => BitVec.getLsbD_xor

/-- Settles O31: the random byte is a field of the state, so it is any byte. -/
theorem rndMasksTheRandomInput : Obligations.RndMasksTheRandomInput := by
  intro x kk s
  obtain ⟨t, ht, hdone, honly, hbits⟩ :=
    exists_next_of_exec_setV_bits (i := .rnd x kk) (s := s) rfl fun _ => BitVec.getLsbD_and
  exact ⟨t, ht, hbits, hdone, honly⟩

/-! ### a completing instruction that writes V[x] and a condition into VF -/

theorem flagByte_decide (c : Prop) [Decidable c] : flagByte (decide c) = if c then 1 else 0 := by
  simp only [flagByte, decide_eq_true_eq]

theorem getV_writeFlagged_vf (s : State) (f : Bool) {x : Reg} (b : Byte) (hx : x ≠ vf) :
    (s.writeFlagged f x b).getV vf = flagByte f := by
  rw [State.getV_writeFlagged, if_neg hx.symm, if_pos rfl]

/-- The shape with a flag: the data in V[x] as a number, and the condition in VF where VF is not V[x] (R12). -/
theorem exists_next_of_exec_writeFlagged {i : Instr} {s : State} {x : Reg} {b : Byte} {c : Prop} [Decidable c] {n : Nat}
    (hexec : exec i s = .next ((s.writeFlagged (decide c) x b).retire s.npc)) (hb : b.toNat = n) :
    ∃ t, exec i s = .next t ∧ (t.getV x).toNat = n ∧ (x ≠ 0xF → t.getV 0xF = if c then 1 else 0) ∧
      completedAt (nextPc s) t ∧ onlyRegs [x, 0xF] s t := by
  have hdata := (congrArg BitVec.toNat (getV_writeFlagged_dest s (decide c) x b)).trans hb
  have hflag (hx : x ≠ 0xF) := (getV_writeFlagged_vf s (decide c) b hx).trans (flagByte_decide c)
  exact ⟨_, hexec, hdata, hflag, completedAt_retire_npc s _, onlyRegs_writeFlagged s _ x b _⟩

/-- The difference modulo 256 as the spec writes it, with the modulus added before the subtrahend is taken off. -/
theorem toNat_sub_byte (a b : Byte) : (a - b).toNat = (a.toNat + 256 - b.toNat) % 256 := by
  bv_omega

/-- Settles O28: the flag is the carry out of the sum. -/
theorem addRegistersSetsCarry : Obligations.AddRegistersSetsCarry :=
  fun _ _ _ => exists_next_of_exec_writeFlagged rfl (BitVec.toNat_add _ _)

/-- Settles O29: one difference, with the operands in either order. -/
theorem subtractionsSetNotBorrow : Obligations.SubtractionsSetNotBorrow :=
  fun _ _ _ => ⟨exists_next_of_exec_writeFlagged rfl (toNat_sub_byte _ _),
    exists_next_of_exec_writeFlagged rfl (toNat_sub_byte _ _)⟩

end Sys2Proof.Machine
end

section
/-! The index register and the memory instructions (spec/43_index_memory.md R120 to R125). Each completes in one of
three shapes, a write of I, bytes stored at I, or a block of registers loaded from I, and what each shape leaves
unchanged is said once. -/

namespace Sys2Proof.Machine

open Sys2Proof.Safety

/-! ### a completing instruction that writes I only -/

theorem onlyRegs_setI (s : State) (w p : Word) : onlyRegs [] s { (s.setI w).retire p with i := s.i } :=
  ⟨fun _ _ => rfl, rfl, fun _ => rfl, fun _ _ => rfl, ⟨rfl, rfl⟩, ⟨rfl, rfl⟩, ⟨rfl, rfl⟩, rfl, rfl, rfl, rfl⟩

/-- The shape: I as a number, and nothing else but PC. -/
theorem exists_next_of_exec_setI {i : Instr} {s : State} {w : Word} {n : Nat}
    (hexec : exec i s = .next ((s.setI w).retire s.npc)) (hw : w.toNat = n) :
    ∃ t, exec i s = .next t ∧ t.i.toNat = n ∧ completedAt (nextPc s) t ∧ onlyRegs [] s { t with i := s.i } :=
  ⟨_, hexec, hw, completedAt_retire_npc s _, onlyRegs_setI s w _⟩

theorem lowNibble_toNat (b : Byte) : (lowNibble b).toNat = b.toNat % 16 :=
  BitVec.extractLsb'_toNat 0 4 b

/-- With the font at 0 (D19) the highest glyph stands at 75, so the product does not wrap. -/
theorem glyphAddress_toNat (d : BitVec 4) : (glyphAddress d).toNat = 5 * d.toNat := by
  have hd := d.isLt
  simp only [glyphAddress, Config.fontBase, Config.fontGlyphBytes]
  bv_omega

/-- Settles O32: the value each of the three gives I, as a number. -/
theorem indexInstructionsSetI : Obligations.IndexInstructionsSetI := by
  intro nnn x s
  refine ⟨?ldI, ?addI, ?ldF⟩
  case ldI => exact exists_next_of_exec_setI rfl (zextAddr_toNat nnn)
  case addI => exact exists_next_of_exec_setI rfl (by rw [BitVec.toNat_add, zextByte_toNat])
  case ldF => exact exists_next_of_exec_setI rfl (by rw [glyphAddress_toNat, lowNibble_toNat])

/-! ### a completing instruction that stores bytes at I -/

/-- What a store leaves unchanged: everything but PC, WAITING, the status and memory. -/
def sameBesideMemory (s t : State) : Prop :=
  sameRegsBut [] s t ∧ t.i = s.i ∧ sameDisplay s t ∧ sameStack s t ∧ sameTimers s t ∧ sameHidden s t ∧ sameDriver s t

theorem sameBesideMemory_setMem_retire (s : State) (m : Memory) (p : Word) :
    sameBesideMemory s ((s.setMem m).retire p) :=
  ⟨fun _ _ => rfl, rfl, fun _ _ => rfl, ⟨rfl, rfl⟩, ⟨rfl, rfl⟩, ⟨rfl, rfl⟩, rfl, rfl, rfl, rfl⟩

/-- The shape: the bytes stand at I, I + 1, ... in order, and no other byte changes. -/
theorem exists_next_of_exec_store {i : Instr} {s : State} {bs : List Byte}
    (hexec : exec i s = .next ((s.setMem (Memory.writeBytes s.i.toNat bs s.mem)).retire s.npc))
    (hm : s.mem.wf = true) (hin : s.i.toNat + bs.length ≤ Config.memSize) :
    ∃ t, exec i s = .next t ∧ (∀ (k : Nat) (hk : k < bs.length), Memory.read (s.i.toNat + k) t.mem = bs[k]) ∧
      sameMemoryOutside s.i.toNat bs.length s t ∧ completedAt (nextPc s) t ∧ sameBesideMemory s t :=
  ⟨_, hexec, fun _ hk => Memory.read_writeBytes hm hin hk, fun _ ha => Memory.read_writeBytes_outside ha,
    completedAt_retire_npc s _, sameBesideMemory_setMem_retire s _ _⟩

theorem exec_ldB_inside {x : Reg} {s : State} (h : s.i.toNat + 2 ≤ 0xFFF) :
    exec (.ldB x) s =
      .next ((s.setMem (Memory.writeBytes s.i.toNat (bcdDigits (s.getV x)) s.mem)).retire s.npc) :=
  congrArg Host.Outcome.next (s.guardRange_inside s.i 3 _ (.inr h))

/-- A number at most a byte is a byte: so are its quotients and remainders. -/
theorem toNat_ofNat_of_le_byte {n : Nat} (b : Byte) (h : n ≤ b.toNat) : (BitVec.ofNat 8 n).toNat = n :=
  Nat.mod_eq_of_lt (h.trans_lt b.isLt)

/-- Settles O33: the bytes stored are the three digits, and none of them wraps. -/
theorem bcdStoresThreeDigits : Obligations.BcdStoresThreeDigits := by
  constructor
  · intro x s hm hi
    obtain ⟨t, ht, hbytes, houtside, hdone, hframe⟩ :=
      exists_next_of_exec_store (exec_ldB_inside (x := x) hi) hm (show s.i.toNat + 3 ≤ 4096 by omega)
    have hbyte (k : Nat) (hk : k < 3) := congrArg BitVec.toNat (hbytes k hk)
    have hfits {n : Nat} (hn : n ≤ (s.getV x).toNat) := toNat_ofNat_of_le_byte (s.getV x) hn
    have hhundreds := (hbyte 0 (by decide)).trans (hfits (Nat.div_le_self _ 100))
    have htens := (hbyte 1 (by decide)).trans (hfits ((Nat.mod_le _ 10).trans (Nat.div_le_self _ 10)))
    have hones := (hbyte 2 (by decide)).trans (hfits (Nat.mod_le _ 10))
    exact ⟨t, ht, hhundreds, htens, hones, houtside, hdone, hframe⟩
  · exact fun x s h => outOfBoundsIsTakenBeforeAnyAccess.2 (.ldB x) s (Nat.succ_pos 2) h

/-- Settles O34: byte r of the block is V[r]. -/
theorem blockStoreWritesV0ToVx : Obligations.BlockStoreWritesV0ToVx := by
  constructor
  · intro x s hm hi
    have hin : s.i.toNat + (s.blockBytes x).length ≤ Config.memSize := by
      rw [s.blockBytes_length x]
      exact show _ ≤ 4096 by omega
    obtain ⟨t, ht, hbytes, houtside, hdone, hframe⟩ := exists_next_of_exec_store (exec_storeRegs_inside hi) hm hin
    have hregs (r : Reg) (hr : r.toNat ≤ x.toNat) : Memory.read (s.i.toNat + r.toNat) t.mem = s.getV r :=
      have hlen : r.toNat < (s.blockBytes x).length := by rw [s.blockBytes_length x]; omega
      (hbytes r.toNat hlen).trans (s.blockBytes_getElem x r hlen)
    rw [s.blockBytes_length x] at houtside
    exact ⟨t, ht, hregs, houtside, hdone, hframe⟩
  · exact fun x s h => outOfBoundsIsTakenBeforeAnyAccess.2 (.storeRegs x) s x.toNat.succ_pos h

/-! ### the block load -/

/-- What a block load leaves unchanged: everything but PC, WAITING, the status and the V registers. -/
def sameBesideRegs (s t : State) : Prop :=
  t.i = s.i ∧ sameMemory s t ∧ sameDisplay s t ∧ sameStack s t ∧ sameTimers s t ∧ sameHidden s t ∧ sameDriver s t

theorem sameBesideRegs_loadBlock_retire (s : State) (a n : Nat) (p : Word) :
    sameBesideRegs s ((State.loadBlock a n s).retire p) := by
  rw [State.loadBlock_eq]
  exact ⟨rfl, fun _ => rfl, fun _ _ => rfl, ⟨rfl, rfl⟩, ⟨rfl, rfl⟩, ⟨rfl, rfl⟩, rfl, rfl, rfl, rfl⟩

theorem exec_loadRegs_inside {x : Reg} {s : State} (h : s.i.toNat + x.toNat ≤ 0xFFF) :
    exec (.loadRegs x) s = .next ((State.loadBlock s.i.toNat (x.toNat + 1) s).retire s.npc) :=
  congrArg Host.Outcome.next (s.guardRange_inside s.i _ _ (.inr h))

/-- Settles O35: V[r] is loaded exactly when r is at most x. -/
theorem blockLoadReadsV0ToVx : Obligations.BlockLoadReadsV0ToVx := by
  constructor
  · intro x s hi
    have hregs := s.loadBlock_getV s.i.toNat (x.toNat + 1) x.isLt
    have hloaded (r : Reg) (hr : r.toNat ≤ x.toNat) := (hregs r).trans (if_pos (Nat.lt_succ_of_le hr))
    have hkept (r : Reg) (hr : x.toNat < r.toNat) := (hregs r).trans (if_neg (Nat.not_lt_of_le hr))
    exact ⟨_, exec_loadRegs_inside hi, hloaded, hkept, completedAt_retire_npc s _,
      sameBesideRegs_loadBlock_retire s _ _ _⟩
  · exact fun x s h => outOfBoundsIsTakenBeforeAnyAccess.2 (.loadRegs x) s x.toNat.succ_pos h

/-- Settles O36: the store keeps I, so the load reads the bytes that were written. -/
theorem blockLoadUndoesBlockStore : Obligations.BlockLoadUndoesBlockStore := by
  intro x s t u hm hi h hmem hindex
  obtain ⟨t', ht', hstored, _, _, _, hkeep, _⟩ := blockStoreWritesV0ToVx.1 x s hm hi
  obtain rfl : t = t' := Host.Outcome.next.inj (h.symm.trans ht')
  have hu : u.i = s.i := hindex.trans hkeep
  obtain ⟨w, hw, hloaded, hkept, _⟩ := blockLoadReadsV0ToVx.1 x u (hu ▸ hi)
  refine ⟨w, hw, fun r hr => ?_, hkept⟩
  calc w.getV r
    _ = Memory.read (u.i.toNat + r.toNat) u.mem := hloaded r hr
    _ = Memory.read (s.i.toNat + r.toNat) t.mem := by rw [hu, hmem]
    _ = s.getV r := hstored r hr

end Sys2Proof.Machine
end

section
/-! Display and keypad (spec/44_display_keypad.md R130 to R135): CLS and DRW end in one shape, a new picture; SKP and
SKNP are skips on the level of one key; LD Vx, K ends on the lowest key newly down, or keeps waiting. -/

namespace Sys2Proof.Machine

open Sys2Proof.Safety

/-! ### CLS -/

/-- What a new picture leaves unchanged: everything but PC, WAITING, the status, the display and the registers named. -/
def sameBesideDisplay (ds : List Reg) (s t : State) : Prop :=
  sameRegsBut ds s t ∧ t.i = s.i ∧ sameMemory s t ∧ sameStack s t ∧ sameTimers s t ∧ sameHidden s t ∧ sameDriver s t

theorem sameBesideDisplay_setDisp_retire (s : State) (d : Display) (p : Word) :
    sameBesideDisplay [] s ((s.setDisp d).retire p) :=
  ⟨fun _ _ => rfl, rfl, fun _ => rfl, ⟨rfl, rfl⟩, ⟨rfl, rfl⟩, ⟨rfl, rfl⟩, rfl, rfl, rfl, rfl⟩

/-- Settles O38: the picture CLS sets is dark. -/
theorem clsClearsEveryPixel : Obligations.ClsClearsEveryPixel :=
  fun s => ⟨_, rfl, Display.pixel_dark, completedAt_retire_npc s _, sameBesideDisplay_setDisp_retire s _ _⟩

/-! ### the pixels of a sprite -/

theorem wrapRow_eq_iff {n : Nat} {r : Fin 32} : wrapRow n = r ↔ r.val = n % 32 :=
  Fin.ext_iff.trans eq_comm

theorem wrapCol_eq_iff {n : Nat} {c : Fin 64} : wrapCol n = c ↔ c.val = n % 64 :=
  Fin.ext_iff.trans eq_comm

/-- The pixels the loops of R131 plot, with the rows read at I, are the pixels the claims call covered. -/
theorem spritePlots_iff_spriteCovers (s : State) (x y : Reg) (n : Nat) (r : Fin 32) (c : Fin 64) :
    spritePlots (s.getV x).toNat (s.getV y).toNat (Memory.readBytes s.i.toNat n s.mem) r c ↔
      spriteCovers s x y n r c := by
  constructor
  · rintro ⟨row, hrow, hr, col, hcol, hbit, hc⟩
    rw [Memory.readBytes_getElem] at hbit
    rw [Memory.readBytes_length] at hrow
    exact ⟨row, hrow, col, hcol, hbit, wrapCol_eq_iff.1 hc, wrapRow_eq_iff.1 hr⟩
  · rintro ⟨row, hrow, col, hcol, hbit, hc, hr⟩
    refine ⟨row, by rwa [Memory.readBytes_length], wrapRow_eq_iff.2 hr, col, hcol, ?_, wrapCol_eq_iff.2 hc⟩
    rwa [Memory.readBytes_getElem]

/-- A sprite is given by its two coordinates, I and the bytes of memory. -/
theorem spriteCovers_congr {s t : State} {x y : Reg} (hx : t.getV x = s.getV x) (hy : t.getV y = s.getV y)
    (hi : t.i = s.i) (hmem : sameMemory s t) (n : Nat) (r : Fin 32) (c : Fin 64) :
    spriteCovers t x y n r c ↔ spriteCovers s x y n r c := by
  simp only [spriteCovers, spriteBitAt, hx, hy, hi, hmem _]

section
variable (s : State) (x y : Reg) (n : BitVec 4)

/-- A sprite has at most 15 rows, so no two of them share a row of the display. -/
theorem length_spriteRows_le : (Memory.readBytes s.i.toNat n.toNat s.mem).length ≤ 32 := by
  have hn := n.isLt
  rw [Memory.readBytes_length]
  omega

theorem pixel_drawn_of_covered {r : Fin 32} {c : Fin 64} (h : spriteCovers s x y n.toNat r c) :
    Display.pixel (s.drawn x y n.toNat).1 r c = !Display.pixel s.disp r c :=
  (plotRows_pixel _ _ _ (length_spriteRows_le s n) (s.disp, false) r c).1
    ((spritePlots_iff_spriteCovers s x y n.toNat r c).2 h)

theorem pixel_drawn_of_not_covered {r : Fin 32} {c : Fin 64} (h : ¬ spriteCovers s x y n.toNat r c) :
    Display.pixel (s.drawn x y n.toNat).1 r c = Display.pixel s.disp r c :=
  (plotRows_pixel _ _ _ (length_spriteRows_le s n) (s.disp, false) r c).2
    (mt (spritePlots_iff_spriteCovers s x y n.toNat r c).1 h)

/-- A collision is a covered pixel that was on. -/
theorem drawn_collision_iff : (s.drawn x y n.toNat).2 = true ↔
    ∃ r c, spriteCovers s x y n.toNat r c ∧ Display.pixel s.disp r c = true := by
  have hflag := plotRows_flag (s.getV x).toNat (s.getV y).toNat _ (length_spriteRows_le s n) (s.disp, false)
  simp only [Bool.false_eq_true, false_or, spritePlots_iff_spriteCovers] at hflag
  exact hflag

/-! ### DRW -/

/-- The state after a sprite is drawn: the picture, then VF (R131). -/
def State.afterDraw : State := (s.setDisp (s.drawn x y n.toNat).1).setFlag (s.drawn x y n.toNat).2

theorem exec_drw_inside (h : n.toNat = 0 ∨ s.i.toNat + n.toNat - 1 ≤ 0xFFF) :
    exec (.drw x y n) s = .next ((s.afterDraw x y n).retire s.npc) :=
  congrArg Host.Outcome.next (s.guardRange_inside s.i n.toNat _ h)

theorem getV_vf_afterDraw : (s.afterDraw x y n).getV vf = flagByte (s.drawn x y n.toNat).2 :=
  State.getV_setV_self _ vf _

theorem sameBesideDisplay_afterDraw_retire (p : Word) :
    sameBesideDisplay [0xF] s ((s.afterDraw x y n).retire p) := by
  refine ⟨fun r hr => ?_, rfl, fun _ => rfl, ⟨rfl, rfl⟩, ⟨rfl, rfl⟩, ⟨rfl, rfl⟩, rfl, rfl, rfl, rfl⟩
  exact (s.setDisp _).getV_setV_ne _ (List.ne_of_not_mem_cons hr)

end

/-- Settles O39: the loops of R131 invert each covered pixel once, and the bounds check stands before them. -/
theorem drwInvertsExactlyTheSpritePixels : Obligations.DrwInvertsExactlyTheSpritePixels := by
  constructor
  · intro x y n s h
    have hvf := getV_vf_afterDraw s x y n
    have hone (hon : ∃ r c, spriteCovers s x y n.toNat r c ∧ Display.pixel s.disp r c = true) :
        (s.afterDraw x y n).getV vf = 1 := by
      rw [hvf, (drawn_collision_iff s x y n).2 hon]
      rfl
    have hzero (hoff : ∀ r c, spriteCovers s x y n.toNat r c → Display.pixel s.disp r c = false) :
        (s.afterDraw x y n).getV vf = 0 := by
      have hnone : ¬ (s.drawn x y n.toNat).2 = true := by
        rw [drawn_collision_iff]
        rintro ⟨r, c, hcov, hon⟩
        exact absurd ((hoff r c hcov).symm.trans hon) Bool.false_ne_true
      rw [hvf, Bool.eq_false_of_not_eq_true hnone]
      rfl
    exact ⟨_, exec_drw_inside s x y n h, fun _ _ => pixel_drawn_of_covered s x y n,
      fun _ _ => pixel_drawn_of_not_covered s x y n, hone, hzero, completedAt_retire_npc s _,
      sameBesideDisplay_afterDraw_retire s x y n _⟩
  · exact fun x y n s => outOfBoundsIsTakenBeforeAnyAccess.2 (.drw x y n) s

/-- Settles O40: the first draw keeps the coordinates, I and memory, so both draws cover the same pixels, and a
covered pixel that is on before the second was turned on by the first. -/
theorem drawingTwiceRestoresTheDisplay : Obligations.DrawingTwiceRestoresTheDisplay := by
  intro x y n s t u hx hy hin ht hu
  obtain ⟨t', ht', hinvert, hkeep, _, _, _, hregs, hi, hmem, _⟩ := drwInvertsExactlyTheSpritePixels.1 x y n s hin
  obtain rfl : t = t' := Host.Outcome.next.inj (ht.symm.trans ht')
  obtain ⟨u', hu', hinvert', hkeep', hone, hzero, _⟩ := drwInvertsExactlyTheSpritePixels.1 x y n t (hi ▸ hin)
  obtain rfl : u = u' := Host.Outcome.next.inj (hu.symm.trans hu')
  have hcovers := spriteCovers_congr (hregs x (by simpa using hx)) (hregs y (by simpa using hy)) hi hmem n.toNat
  constructor
  · refine Display.ext fun r c => ?_
    by_cases hc : spriteCovers s x y n.toNat r c
    · rw [hinvert' r c ((hcovers r c).2 hc), hinvert r c hc, Bool.not_not]
    · rw [hkeep' r c (mt (hcovers r c).1 hc), hkeep r c hc]
  · have hturnedOn (r : Fin 32) (c : Fin 64) :
        (Display.pixel s.disp r c = false ∧ Display.pixel t.disp r c = true) ↔
          (spriteCovers t x y n.toNat r c ∧ Display.pixel t.disp r c = true) := by
      rw [hcovers]
      by_cases hc : spriteCovers s x y n.toNat r c
      · simp [hc, hinvert r c hc]
      · simp [hc, hkeep r c hc]
    simp only [hturnedOn]
    refine ⟨fun hvf => ?_, hone⟩
    by_contra hnone
    have hoff (r : Fin 32) (c : Fin 64) (hc : spriteCovers t x y n.toNat r c) : Display.pixel t.disp r c = false :=
      Bool.eq_false_of_not_eq_true fun hon => hnone ⟨r, c, hc, hon⟩
    exact absurd (hvf.symm.trans (hzero hoff)) (by decide)

/-! ### SKP and SKNP -/

/-- D21: the key is named by the low nibble. -/
theorem keyDown_lowNibble (s : State) (b : Byte) : s.keyDown (lowNibble b) = s.keys.getLsbD (b.toNat % 16) := by
  rw [State.keyDown, lowNibble_toNat]

/-- Settles O41: both are skips, on the level of the key and on its opposite. -/
theorem keySkipsTestTheKeyLevel : Obligations.KeySkipsTestTheKeyLevel := by
  intro x s
  have hkey := keyDown_lowNibble s (s.getV x)
  constructor
  · exact exists_next_of_exec_skip rfl (by rw [hkey])
  · exact exists_next_of_exec_skip rfl (by simp only [hkey, Bool.not_eq_true', ← Bool.not_eq_true, ite_not])

/-! ### LD Vx, K -/

theorem keyEdges_getLsbD_iff (s : State) {k : Nat} (hk : k < 16) :
    s.keyEdges.getLsbD k = true ↔ s.keys.getLsbD k = true ∧ s.keyPrev.getLsbD k = false := by
  rw [s.keyEdges_getLsbD k hk, Bool.and_eq_true, Bool.not_eq_true']

theorem exec_ldVxK_of_lowestKey {x : Reg} {s : State} {k : Nat} (hw : s.waiting = true)
    (hk : lowestKey s.keyEdges = some k) :
    exec (.ldVxK x) s = .next ((s.setV x (BitVec.ofNat 8 k)).retire s.npc) := by
  simp [exec, execLdVxK, hw, hk]

/-- D22: the first Step of a wait only samples; so does a later one with no key newly down. -/
theorem exec_ldVxK_of_no_key {x : Reg} {s : State} (h : s.waiting = true → lowestKey s.keyEdges = none) :
    exec (.ldVxK x) s = .next s.keepWaiting := by
  cases hw : s.waiting with
  | false => simp [exec, execLdVxK, hw]
  | true => simp [exec, execLdVxK, hw, h hw]

/-- Settles O42, by the search for the lowest edge: the key it finds, or the wait kept. -/
theorem waitForKeyEndsOnTheLowestNewKey : Obligations.WaitForKeyEndsOnTheLowestNewKey := by
  constructor
  · intro x k s hk hw hdown hup hlower
    have hlowest : lowestKey s.keyEdges = some k := lowestKey_some.2
      ⟨hk, (keyEdges_getLsbD_iff s hk).2 ⟨hdown, hup⟩, fun j hj =>
        Bool.eq_false_of_not_eq_true (mt (keyEdges_getLsbD_iff s (hj.trans hk)).1 (hlower j hj))⟩
    obtain ⟨t, ht, hdata, hframe⟩ := exists_next_of_exec_setV (exec_ldVxK_of_lowestKey (x := x) hw hlowest)
    have hkey : (t.getV x).toNat = k := by
      rw [hdata, BitVec.toNat_ofNat]
      exact Nat.mod_eq_of_lt (hk.trans (by decide))
    exact ⟨t, ht, hkey, hframe⟩
  · intro x s h
    have hnone (hw : s.waiting = true) : lowestKey s.keyEdges = none := lowestKey_none.2 fun k hk =>
      Bool.eq_false_of_not_eq_true (mt (keyEdges_getLsbD_iff s hk).1 (h hw k hk))
    exact ⟨s.keepWaiting, exec_ldVxK_of_no_key hnone, rfl, rfl, rfl, rfl, fun _ _ => rfl, rfl, fun _ => rfl,
      fun _ _ => rfl, ⟨rfl, rfl⟩, ⟨rfl, rfl⟩, rfl, rfl, rfl, rfl, rfl⟩

end Sys2Proof.Machine
end

section
/-! The timers (spec/45_timers.md R140 to R143): one Tick, a run of Ticks by induction on their number, and the three
instructions that move a byte between a register and a timer. -/

namespace Sys2Proof.Machine

open Sys2Proof.Safety

/-! ### Tick -/

/-- Held at 0, a counter is the truncated difference of the numbers (R143). -/
theorem countDown_toNat (b : Byte) : (countDown b).toNat = b.toNat - 1 := by
  unfold countDown
  split
  case isTrue hzero => rw [hzero]; rfl
  case isFalse hne => bv_omega

theorem step_of_nextEvent_tick {s : State} (h : s.nextEvent = .tick) : step s = .next s.dropEvent.tickEvent := by
  simp [step, h, State.perform]

theorem tickEvent_dropEvent_dt_toNat (s : State) : s.dropEvent.tickEvent.dt.toNat = s.dt.toNat - 1 := by
  rw [State.tickEvent_dt, countDown_toNat, State.dropEvent_dt]

theorem tickEvent_dropEvent_st_toNat (s : State) : s.dropEvent.tickEvent.st.toNat = s.st.toNat - 1 := by
  rw [State.tickEvent_st, countDown_toNat, State.dropEvent_st]

/-- Settles O13: taking the event touches neither timer, and Tick touches nothing else. -/
theorem tickDecrementsBothTimers : Obligations.TickDecrementsBothTimers := by
  intro s he
  exact ⟨s.dropEvent.tickEvent, step_of_nextEvent_tick he, tickEvent_dropEvent_dt_toNat s,
    tickEvent_dropEvent_st_toNat s, s.dropEvent_v, s.dropEvent_i, s.dropEvent_pc, ⟨s.dropEvent_sp, s.dropEvent_stack⟩,
    s.dropEvent_waiting, ⟨s.dropEvent_err, s.dropEvent_keyPrev⟩, s.dropEvent_mem, s.dropEvent_disp, s.dropEvent_status,
    s.dropEvent_keys, s.dropEvent_rnd⟩

/-! ### a run of Ticks -/

theorem run_succ_of_step {s u : core.State} (h : core.step s = .next u) (k : Nat) :
    Host.Core.run core (k + 1) s = Host.Core.run core k u := by
  rw [Host.Core.run, h]

/-- Settles O14, by induction on the number of Ticks: the first one leaves a state whose timers are one less and whose
pending events begin with the other Ticks. -/
theorem timerReachesZeroAfterItsTicks : Obligations.TimerReachesZeroAfterItsTicks := by
  intro k
  induction k with
  | zero =>
    intro s t rest hevents hrun
    cases hrun
    exact ⟨rfl, rfl, hevents⟩
  | succ k ih =>
    intro s t rest hevents hrun
    rw [List.replicate_succ, List.cons_append] at hevents
    have hfirst := step_of_nextEvent_tick (s.nextEvent_cons hevents)
    have hpending : s.dropEvent.tickEvent.events = List.replicate k .tick ++ rest := by
      rw [State.tickEvent_events, State.dropEvent_events, hevents, List.tail_cons]
    rw [run_succ_of_step hfirst] at hrun
    obtain ⟨hdt, hst, hrest⟩ := ih _ t rest hpending hrun
    rw [tickEvent_dropEvent_dt_toNat, Nat.sub_sub, Nat.add_comm] at hdt
    rw [tickEvent_dropEvent_st_toNat, Nat.sub_sub, Nat.add_comm] at hst
    exact ⟨hdt, hst, hrest⟩

/-! ### the transfers -/

/-- But for DT, a completing write of DT is a completing instruction that writes nothing. -/
theorem onlyRegs_setDT (s : State) (b : Byte) (p : Word) : onlyRegs [] s { (s.setDT b).retire p with dt := s.dt } :=
  onlyRegs_retire s p

/-- The same for ST. -/
theorem onlyRegs_setST (s : State) (b : Byte) (p : Word) : onlyRegs [] s { (s.setST b).retire p with st := s.st } :=
  onlyRegs_retire s p

/-- Settles O43: LD Vx, DT is a write of V[x], the other two a write of one timer. -/
theorem timerInstructionsTransfer : Obligations.TimerInstructionsTransfer := by
  intro x s
  refine ⟨?ldVxDT, ?ldDTVx, ?ldSTVx⟩
  case ldVxDT => exact exists_next_of_exec_setV rfl
  case ldDTVx => exact ⟨_, rfl, rfl, rfl, completedAt_retire_npc s _, onlyRegs_setDT s _ _⟩
  case ldSTVx => exact ⟨_, rfl, rfl, rfl, completedAt_retire_npc s _, onlyRegs_setST s _ _⟩

end Sys2Proof.Machine
end

section
/-! FAULTED (spec/60_exceptions.md R159, R160): while no Reset is pending, an event keeps everything but the answer and
the timers, which only fall. -/

namespace Sys2Proof.Machine

open Sys2Proof.Safety

/-! ### the driver's plan -/

/-- No Reset is pending. -/
def noReset (s : State) : Prop := ∀ e ∈ s.events, e ≠ .reset

theorem noReset_dropEvent {s : State} (h : noReset s) : noReset s.dropEvent :=
  fun e he => h e (List.mem_of_mem_tail (s.dropEvent_events ▸ he))

/-- The next event is a pending one or, with none pending, a Step. -/
theorem nextEvent_ne_reset {s : State} (h : noReset s) : s.nextEvent ≠ .reset := by
  cases hevents : s.events with
  | nil => simp [State.nextEvent, hevents]
  | cons e es =>
    rw [s.nextEvent_cons hevents]
    exact h e (by simp [hevents])

/-! ### what stays in FAULTED -/

/-- From `s` to `t` the timers have not risen, and nothing else of the machine has changed, ERR included (R159). -/
structure OnlyTimersFell (s t : State) : Prop where
  err : t.err = s.err
  v : t.v = s.v
  i : t.i = s.i
  pc : t.pc = s.pc
  stack : t.stack = s.stack
  sp : t.sp = s.sp
  waiting : t.waiting = s.waiting
  keyPrev : t.keyPrev = s.keyPrev
  mem : t.mem = s.mem
  disp : t.disp = s.disp
  dt : t.dt.toNat ≤ s.dt.toNat
  st : t.st.toNat ≤ s.st.toNat

theorem OnlyTimersFell.refl (s : State) : OnlyTimersFell s s := by
  constructor <;> rfl

theorem OnlyTimersFell.trans {s t u : State} (h : OnlyTimersFell s t) (h' : OnlyTimersFell t u) :
    OnlyTimersFell s u where
  err := h'.err.trans h.err
  v := h'.v.trans h.v
  i := h'.i.trans h.i
  pc := h'.pc.trans h.pc
  stack := h'.stack.trans h.stack
  sp := h'.sp.trans h.sp
  waiting := h'.waiting.trans h.waiting
  keyPrev := h'.keyPrev.trans h.keyPrev
  mem := h'.mem.trans h.mem
  disp := h'.disp.trans h.disp
  dt := h'.dt.trans h.dt
  st := h'.st.trans h.st

theorem onlyTimersFell_tickEvent (s : State) : OnlyTimersFell s s.dropEvent.tickEvent := by
  constructor <;> simp [countDown_toNat]

theorem onlyTimersFell_refuseStep (s : State) (k : Keys) (b : Byte) :
    OnlyTimersFell s (s.dropEvent.present k b).refuseStep := by
  constructor <;> simp

/-- Of the three events, Reset is not pending, Tick lowers the timers, and a Step is refused. -/
theorem step_of_faulted {s t : State} (hv : s.err.valid = true) (hr : noReset s) (h : step s = .next t) :
    OnlyTimersFell s t ∧ noReset t := by
  rcases step_cases h with ⟨he, _⟩ | ⟨_, rfl⟩ | ⟨k, b, _, hs⟩
  · exact absurd he (nextEvent_ne_reset hr)
  · exact ⟨onlyTimersFell_tickEvent s, noReset_dropEvent hr⟩
  · have hfaulted : (s.dropEvent.present k b).err.valid = true := by simp [hv]
    rw [stepEvent_of_faulted hfaulted] at hs
    cases hs
    exact ⟨onlyTimersFell_refuseStep s k b, noReset_dropEvent hr⟩

/-! ### any number of steps -/

/-- What every step keeps, every run keeps. -/
theorem run_keeps {P : State → Prop} (hstep : ∀ s t, P s → step s = .next t → P t) (n : Nat) {s t : State}
    (hs : P s) (hrun : Host.Core.run core n s = .next t) : P t := by
  induction n generalizing s with
  | zero => cases hrun; exact hs
  | succ n ih =>
    obtain ⟨u, hu⟩ := everyEventIsAnswered s
    rw [run_succ_of_step hu] at hrun
    exact ih (hstep s u hs hu) hrun

/-- From FAULTED in `s` to `t` only the timers fell, and no Reset is pending in `t`. -/
def StaysFaulted (s t : State) : Prop := OnlyTimersFell s t ∧ noReset t

/-- The fault latched in `s` is the one latched now, so the next event is one in FAULTED too. -/
theorem staysFaulted_step {s t u : State} (hv : s.err.valid = true) (ht : StaysFaulted s t) (h : step t = .next u) :
    StaysFaulted s u := by
  obtain ⟨hfell, hplan⟩ := ht
  have hstill : t.err.valid = true := hfell.err ▸ hv
  obtain ⟨hnext, hplan'⟩ := step_of_faulted hstill hplan h
  exact ⟨hfell.trans hnext, hplan'⟩

/-- Settles O12, by induction on the number of steps. -/
theorem onlyResetLeavesFaulted : Obligations.OnlyResetLeavesFaulted := by
  intro n s t hv hr hrun
  have hkept : StaysFaulted s t := run_keeps (fun _ _ => staysFaulted_step hv) n ⟨.refl s, hr⟩ hrun
  obtain ⟨⟨err, v, i, pc, stack, sp, waiting, keyPrev, mem, disp, dt, st⟩, _⟩ := hkept
  exact ⟨err, v, i, pc, stack, sp, waiting, keyPrev, mem, disp, dt, st⟩

end Sys2Proof.Machine
end

section
/-! Taking a fault (spec/60_exceptions.md R150 to R157): what each stage of a Step can take, in stage order, and that
taking it changes ERR and the answer only. -/

namespace Sys2Proof.Machine

open Sys2Proof.Safety

/-! ### the causes -/

/-- The faults of an instruction (R152 to R154), each with its one condition. -/
inductive ExecFault (i : Instr) (s : State) : CoreFault → Prop
  | underflow (hi : i = .ret) (hsp : s.sp.val = 0) : ExecFault i s (.stackUnderflow 0)
  | overflow (nnn : Addr) (hi : i = .call nnn) (hsp : s.sp.val = 16) : ExecFault i s (.stackOverflow 16)
  | access (h0 : accessLength i > 0) (h : s.i.toNat + accessLength i - 1 > 0xFFF) :
      ExecFault i s (.outOfBounds (firstBadAddress s.i))

/-- The faults of a Step in stage order (R156): fetch, decoder, instruction. -/
inductive StepFault (s : State) : CoreFault → Prop
  | fetch (hp : s.pc.toNat > 0xFFE) : StepFault s (.outOfBounds (firstBadAddress s.pc))
  | decode (hp : s.pc.toNat ≤ 0xFFE) (hw : illegalWord s.wordAtPc) : StepFault s (.unknownOpcode s.wordAtPc)
  | exec {i : Instr} {f : CoreFault} (hp : s.pc.toNat ≤ 0xFFE) (hi : decodeWord s.wordAtPc = .ok i)
      (hf : ExecFault i s f) : StepFault s f

/-! ### a fault newly latched was taken for its cause -/

section
variable {i : Instr} {s t : State}

/-- A new fault of a guarded access is that of its range. -/
theorem execFault_of_guardRange {len : Nat} {k : State} (hv : s.err.valid = false)
    (ht : (s.guardRange s.i len k).err.valid = true) (hlen : len = accessLength i) (hk : k.err = s.err) :
    ∃ f, s.guardRange s.i len k = s.raise f ∧ ExecFault i s f := by
  subst hlen
  rcases s.guardRange_cases s.i (accessLength i) k with ⟨_, hin⟩ | ⟨h0, h, hout⟩
  · rw [hin, hk, hv] at ht
    cases ht
  · exact ⟨_, hout, .access h0 h⟩

theorem execFault_of_exec (hv : s.err.valid = false) (h : exec i s = .next t) (ht : t.err.valid = true) :
    ∃ f, t = s.raise f ∧ ExecFault i s f := by
  have hnew : t.err ≠ s.err := fun e => by simp [e, hv] at ht
  cases i
  case ret =>
    cases h
    rcases s.popAndJump_cases with ⟨_, hpop⟩ | ⟨hsp, hpop⟩
    · exact absurd (congrArg State.err hpop) hnew
    · exact ⟨_, hpop, .underflow rfl hsp⟩
  case call nnn =>
    cases h
    rcases s.pushAndJump_cases s.npc (zextAddr nnn) with ⟨_, hpush⟩ | ⟨hsp, hpush⟩
    · exact absurd (congrArg State.err hpush) hnew
    · exact ⟨_, hpush, .overflow nnn rfl hsp⟩
  case drw | ldB | storeRegs =>
    cases h
    exact execFault_of_guardRange hv ht rfl rfl
  case loadRegs =>
    cases h
    exact execFault_of_guardRange hv ht rfl (s.loadBlock_err _ _)
  case ldVxK x =>
    cases exec_ends h with
    | fault f hi => exact absurd rfl (hi x)
    | wait => exact absurd rfl hnew
    | done target wrote => exact absurd wrote.err_eq hnew
  all_goals
    cases h
    exact absurd rfl hnew

theorem stepFault_of_fetchDecode {f : CoreFault} (hf : s.fetchDecode = .error f) : StepFault s f := by
  rcases fetchDecode_cases s with ⟨hp, hout⟩ | ⟨hp, hsel, hbad⟩ | ⟨_, _, _, hok⟩
  · cases hout.symm.trans hf
    exact .fetch hp
  · cases hbad.symm.trans hf
    rcases decodeWord_cases s.wordAtPc with ⟨i, hi, _, _⟩ | ⟨_, hw⟩
    · rw [decodeWord_eq_ok_iff, hsel] at hi
      cases hi
    · exact .decode hp hw
  · cases hok.symm.trans hf

/-- An instruction to run was fetched from memory and decoded. -/
theorem decodeWord_of_fetchDecode (hi : s.fetchDecode = .ok i) :
    s.pc.toNat ≤ 0xFFE ∧ decodeWord s.wordAtPc = .ok i := by
  rcases fetchDecode_cases s with ⟨_, hout⟩ | ⟨_, _, hbad⟩ | ⟨j, hp, hsel, hok⟩
  · cases hout.symm.trans hi
  · cases hbad.symm.trans hi
  · cases hok.symm.trans hi
    exact ⟨hp, decodeWord_eq_ok_iff.2 hsel⟩

theorem stepFault_of_stepEvent (hv : s.err.valid = false) (h : s.stepEvent = .next t) (ht : t.err.valid = true) :
    ∃ f, t = s.raise f ∧ StepFault s f := by
  rcases stepEvent_cases h with ⟨hv', _⟩ | ⟨_, f, hf, rfl⟩ | ⟨_, i, hi, hexec⟩
  · simp [hv] at hv'
  · exact ⟨f, rfl, stepFault_of_fetchDecode hf⟩
  · obtain ⟨f, hraise, hcause⟩ := execFault_of_exec hv hexec ht
    obtain ⟨hp, hdecode⟩ := decodeWord_of_fetchDecode hi
    exact ⟨f, hraise, .exec hp hdecode hcause⟩

/-- Of the events, only a Step latches a fault that was not there. -/
theorem stepFault_of_step (hv : s.err.valid = false) (h : step s = .next t) (ht : t.err.valid = true) :
    ∃ k b f, s.nextEvent = .step k b ∧ t = (s.dropEvent.present k b).raise f ∧
      StepFault (s.dropEvent.present k b) f := by
  rcases step_cases h with ⟨_, rfl⟩ | ⟨_, rfl⟩ | ⟨k, b, he, hs⟩
  · cases ht
  · simp [hv] at ht
  · have hnoFault : (s.dropEvent.present k b).err.valid = false := by simp [hv]
    obtain ⟨f, hraise, hcause⟩ := stepFault_of_stepEvent hnoFault hs ht
    exact ⟨k, b, f, he, hraise, hcause⟩

end

/-! ### the event that took the fault -/

section
variable (s : State) (k : Keys) (b : Byte) (f : CoreFault)

/-- Taking the event and presenting the inputs leave the machine as it is, and so does the fault (R157). -/
theorem sameMachine_dropEvent_raise : sameMachine s ((s.dropEvent.present k b).raise f) := by
  simp [sameMachine]

theorem latched_dropEvent_raise : latched f.code s.pc f.info.toNat ((s.dropEvent.present k b).raise f) := by
  simpa using latched_raise (s.dropEvent.present k b) f

theorem wordAtPc_dropEvent_present : (s.dropEvent.present k b).wordAtPc = s.wordAtPc := by
  simp [State.wordAtPc]

end

/-- A Step without its instruction takes the fault of its fetch or decoder. -/
theorem step_of_fetchDecode_error {s : State} {k : Keys} {b : Byte} {f : CoreFault} (he : s.nextEvent = .step k b)
    (hv : s.err.valid = false) (hf : s.fetchDecode = .error f) :
    step s = .next ((s.dropEvent.present k b).raise f) := by
  have hfetch : (s.dropEvent.present k b).fetchDecode = .error f :=
    (fetchDecode_congr s.dropEvent_pc s.dropEvent_mem).trans hf
  have hnoFault : (s.dropEvent.present k b).err.valid = false := by simp [hv]
  rw [step_of_nextEvent_step he, stepEvent_of_fetchDecode_error hnoFault hfetch]

theorem fetchDecode_of_decodeWord_error {s : State} {e : DecodeError} (hp : s.pc.toNat ≤ 0xFFE)
    (he : decodeWord s.wordAtPc = .error e) : s.fetchDecode = .error (.unknownOpcode s.wordAtPc) := by
  simp [State.fetchDecode, fetchWord_of_pc_inside hp, he]

/-- Settles O8: the fetch finds the word, the decoder rejects it. -/
theorem unknownWordFaults : Obligations.UnknownWordFaults := by
  intro s keys rnd w he hv hp hw hreject
  subst hw
  have hfault := fetchDecode_of_decodeWord_error hp hreject
  exact ⟨_, step_of_fetchDecode_error he hv hfault, latched_dropEvent_raise s keys rnd (.unknownOpcode s.wordAtPc),
    sameMachine_dropEvent_raise s keys rnd _⟩

/-- Settles O9: whatever its cause, the fault was taken on the state the Step found. -/
theorem faultingStepCommitsNothing : Obligations.FaultingStepCommitsNothing := by
  intro s t hv h ht
  obtain ⟨k, b, f, _, rfl, _⟩ := stepFault_of_step hv h ht
  exact ⟨latched_dropEvent_raise s k b f, sameMachine_dropEvent_raise s k b f⟩

/-- Settles O10: one clause for each cause. -/
theorem everyFaultHasItsCause : Obligations.EveryFaultHasItsCause := by
  intro s t hv h ht
  obtain ⟨k, b, f, he, rfl, hcause⟩ := stepFault_of_step hv h ht
  refine ⟨⟨k, b, he⟩, ?_⟩
  have hpc : (s.dropEvent.present k b).pc = s.pc := s.dropEvent_pc
  have hi : (s.dropEvent.present k b).i = s.i := s.dropEvent_i
  have hsp : (s.dropEvent.present k b).sp = s.sp := s.dropEvent_sp
  have hword := wordAtPc_dropEvent_present s k b
  cases hcause with
  | fetch hp => exact .inl ⟨rfl, hpc ▸ hp, hpc ▸ outOfBounds_info_toNat _⟩
  | decode hp hw => exact .inr ⟨hpc ▸ hp, s.wordAtPc, rfl, .inl ⟨rfl, hword ▸ hw, hword⟩⟩
  | exec hp hdecode hf =>
    refine .inr ⟨hpc ▸ hp, s.wordAtPc, rfl, .inr ?_⟩
    rw [hword] at hdecode
    cases hf with
    | underflow hret hempty => exact .inl ⟨rfl, hret ▸ hdecode, hsp ▸ hempty, rfl⟩
    | overflow nnn hcall hfull => exact .inr (.inl ⟨rfl, ⟨nnn, hcall ▸ hdecode⟩, hsp ▸ hfull, rfl⟩)
    | access h0 hrange => exact .inr (.inr ⟨rfl, hi ▸ outOfBounds_info_toNat _, _, hdecode, h0, hi ▸ hrange⟩)

end Sys2Proof.Machine
end

section
/-! Tick and the instructions that use no timer (spec/60_exceptions.md R162, spec/70_reset_and_hazards.md R185): each
shared operation commutes with Tick, and so does every such instruction. -/

namespace Sys2Proof.Machine

open Sys2Proof.Safety

section
variable (s : State)

theorem State.guardRange_tickEvent (a : Word) (len : Nat) {u u' : State} (hu : u' = u.tickEvent) :
    s.tickEvent.guardRange a len u' = (s.guardRange a len u).tickEvent := by
  subst hu
  unfold State.guardRange
  rw [apply_ite State.tickEvent]
  rfl

theorem State.loadBlock_tickEvent (p n : Nat) :
    State.loadBlock p n s.tickEvent = (State.loadBlock p n s).tickEvent := by
  induction n with
  | zero => rfl
  | succ n ih =>
    simp only [State.loadBlock, ih]
    rfl

theorem State.pushAndJump_tickEvent (ret target : Word) :
    s.tickEvent.pushAndJump ret target = (s.pushAndJump ret target).tickEvent := by
  unfold State.pushAndJump
  rw [apply_dite State.tickEvent]
  rfl

theorem State.popAndJump_tickEvent : s.tickEvent.popAndJump = s.popAndJump.tickEvent := by
  unfold State.popAndJump
  rw [apply_dite State.tickEvent]
  rfl

end

/-- LD Vx, K in its three cases: a key ends the wait, no key goes on with it, or the wait begins. -/
theorem exec_ldVxK_tickEvent {s t : State} (x : Reg) (h : exec (.ldVxK x) s = .next t) :
    exec (.ldVxK x) s.tickEvent = .next t.tickEvent := by
  have hwaiting : s.tickEvent.waiting = s.waiting := rfl
  have hedges : s.tickEvent.keyEdges = s.keyEdges := rfl
  cases h
  simp only [exec, execLdVxK, hwaiting, hedges]
  split
  · split <;> rfl
  · rfl

/-- Settles O52: the three timer instructions are left out, and the others read and write beside the timers. -/
theorem tickCommutesWithTimerFreeInstructions : Obligations.TickCommutesWithTimerFreeInstructions := by
  intro i s t hi h
  cases i
  case ldVxDT | ldDTVx | ldSTVx => cases hi
  case ret => cases h; exact congrArg Host.Outcome.next s.popAndJump_tickEvent
  case call nnn => cases h; exact congrArg Host.Outcome.next (s.pushAndJump_tickEvent _ _)
  case ldVxK x => exact exec_ldVxK_tickEvent x h
  case drw | ldB | storeRegs =>
    cases h
    exact congrArg Host.Outcome.next (s.guardRange_tickEvent _ _ (by rfl))
  case loadRegs x =>
    cases h
    have hload := s.loadBlock_tickEvent s.i.toNat (x.toNat + 1)
    exact congrArg Host.Outcome.next (s.guardRange_tickEvent _ _ (congrArg (State.retire s.npc) hload))
  all_goals
    cases h
    rfl

end Sys2Proof.Machine
end

section
/-! The listed words of the decoder table T-DEC (spec/95_test_vectors.md 2.1): a legal word is the encoding of its
instruction, and the others stand on the list of R71. -/

namespace Sys2Proof

open Sys2Proof.Safety

theorem decodeWord_of_encode_eq {w : Word} {i : Instr} (wf : i.WellFormed) (enc : encode i = w) :
    decodeWord w = .ok i :=
  enc ▸ (decodeOfEncodeIsIdentity i wf).1

/-- Settles O1: ten words are encodings; the last three are illegal in families 5 (low nibble 0xF, decision D18), 8
(low nibble 0xF) and F (low byte 0x75). -/
theorem specWordsDecodeAsListed : Obligations.SpecWordsDecodeAsListed := by
  have family5 : illegalWord 0x512F := .inl (by decide)
  have family8 : illegalWord 0x8ABF := .inr (.inl (by decide))
  have familyF : illegalWord 0xF075 := .inr (.inr (.inr (.inr (by decide))))
  refine ⟨?_, ?_, ?_, ?_, ?_, ?_, ?_, ?_, ?_, ?_, decodeWord_of_illegalWord family5,
    decodeWord_of_illegalWord family8, decodeWord_of_illegalWord familyF⟩
  all_goals exact decodeWord_of_encode_eq rfl rfl

end Sys2Proof
end
